-- ==== Sys2Proof/Word.lean ====
section
/-!
DEFINITION. The widths of the CVAC's data (rule R7) and the value a host access carries (rule R20).
-/

namespace Sys2Proof

/-- An 8-bit register, a wire byte or a CRC byte (rule R7). -/
abbrev Byte := BitVec 8

/-- A 16-bit command, payload word or raw code (rule R7). -/
abbrev Word16 := BitVec 16

/-- The bit pattern of an IEEE 754 binary64 number, bit 63 the sign (rules R8 and R46). -/
abbrev F64 := BitVec 64

/-- The value a host access moves: a register's whole width, 8, 16 or 64 bits (rule R20). -/
inductive RegValue where
  | b8  (v : Byte)
  | b16 (v : Word16)
  | b64 (v : F64)
  deriving DecidableEq, Repr

/-- The width of a host value in bits. -/
def RegValue.width : RegValue → Nat
  | .b8 _  => 8
  | .b16 _ => 16
  | .b64 _ => 64

end Sys2Proof
end

