-- ==== Sys2Proof/Syntax.lean ====
section
/-!
DEFINITION. The 13 operations of the opcode map (rule R58), one constructor per row of
spec/opcode_table.json. The one operand is the SEL field, two bits (rules R56 and R57).
-/

namespace Sys2Proof

/-- An operation with its SEL operand where it takes one (rule R57). -/
inductive Instr where
  /-- CRC of DATA into CRC (R76). -/
  | crcgen
  /-- 2-byte command frame (R77). -/
  | frmc
  /-- 5-byte command and data frame (R78). -/
  | frmcd
  /-- check one group into WORD[k] (R79). -/
  | chk1 (k : BitVec 2)
  /-- check two groups (R80). -/
  | chk2
  /-- check three groups (R81). -/
  | chk3
  /-- decode a temperature from WORD[k] (R91). -/
  | tdec (k : BitVec 2)
  /-- decode a humidity from WORD[k] (R92). -/
  | hdec (k : BitVec 2)
  /-- encode XT into WORD[k] (R93). -/
  | tenc (k : BitVec 2)
  /-- encode XH into WORD[k] (R94). -/
  | henc (k : BitVec 2)
  /-- pack the alert threshold word (R95). -/
  | thpk
  /-- encode the offset word (R96). -/
  | ofsenc
  /-- decode the offset word of WORD[k] (R97). -/
  | ofsdec (k : BitVec 2)
  deriving DecidableEq, Repr

end Sys2Proof
end

