-- ==== Sys2Proof/WellFormed.lean ====
section
/-!
DEFINITION. Which operations are legal as terms: SEL is 0, 1 or 2 where it is used (rule R57).
-/

namespace Sys2Proof

/-- SEL names a WORD register: 0, 1 or 2; `k = 3` is illegal (rule R57). -/
def selOk (k : BitVec 2) : Bool := k != 3

/-- An operation is well formed when the SEL it takes names a WORD register (rules R57 and R58). -/
def Instr.wf : Instr → Bool
  | .crcgen   => true
  | .frmc     => true
  | .frmcd    => true
  | .chk1 k   => selOk k
  | .chk2     => true
  | .chk3     => true
  | .tdec k   => selOk k
  | .hdec k   => selOk k
  | .tenc k   => selOk k
  | .henc k   => selOk k
  | .thpk     => true
  | .ofsenc   => true
  | .ofsdec k => selOk k

end Sys2Proof
end

