-- ==== Sys2Proof/Decode.lean ====
section
/-!
DEFINITION. Decoding a CTRL value in the order of rule R59, and the encoder of rule R56's format.
The decoder is total on the 256 CTRL values and names why it rejects one.
-/

namespace Sys2Proof

/-- Why rule R59 makes a CTRL value ILLEGAL (the three cases of rule R102). -/
inductive Reject where
  /-- RSV, bits 7:6, is not 0 -/
  | rsvNonzero (rsv : BitVec 2)
  /-- OP is 0x0, 0xE or 0xF -/
  | opReserved (op : BitVec 4)
  /-- SEL is 3 where it is used, or not 0 where it is not -/
  | selIllegal (op : BitVec 4) (sel : BitVec 2)
  deriving DecidableEq, Repr

/-- OP, bits 3:0 (rule R56). -/
def ctrlOp (v : Byte) : BitVec 4 := v.extractLsb' 0 4

/-- SEL, bits 5:4 (rule R56). -/
def ctrlSel (v : Byte) : BitVec 2 := v.extractLsb' 4 2

/-- RSV, bits 7:6 (rule R56). -/
def ctrlRsv (v : Byte) : BitVec 2 := v.extractLsb' 6 2

/-- An operation that takes no SEL: SEL must be 0 (rule R57). -/
def decodePlain (i : Instr) (op : BitVec 4) (k : BitVec 2) : Except Reject Instr :=
  if k = 0 then .ok i else .error (.selIllegal op k)

/-- An operation that takes SEL: SEL must not be 3 (rule R57). -/
def decodeSel (f : BitVec 2 → Instr) (op : BitVec 4) (k : BitVec 2) : Except Reject Instr :=
  if k = 3 then .error (.selIllegal op k) else .ok (f k)

/-- The opcode map of rule R58, for a value whose RSV is 0. -/
def decodeOp (op : BitVec 4) (k : BitVec 2) : Except Reject Instr :=
  if op = 0x1 then decodePlain .crcgen op k
  else if op = 0x2 then decodePlain .frmc op k
  else if op = 0x3 then decodePlain .frmcd op k
  else if op = 0x4 then decodeSel .chk1 op k
  else if op = 0x5 then decodePlain .chk2 op k
  else if op = 0x6 then decodePlain .chk3 op k
  else if op = 0x7 then decodeSel .tdec op k
  else if op = 0x8 then decodeSel .hdec op k
  else if op = 0x9 then decodeSel .tenc op k
  else if op = 0xA then decodeSel .henc op k
  else if op = 0xB then decodePlain .thpk op k
  else if op = 0xC then decodePlain .ofsenc op k
  else if op = 0xD then decodeSel .ofsdec op k
  else .error (.opReserved op)

/-- Rule R59: the first test that applies decides. -/
def decode (v : Byte) : Except Reject Instr :=
  if ctrlRsv v = 0 then decodeOp (ctrlOp v) (ctrlSel v) else .error (.rsvNonzero (ctrlRsv v))

/-- The CTRL value `{00, SEL, OP}` of rule R58. -/
def ctrlWord (sel : BitVec 2) (op : BitVec 4) : Byte := (0#2 ++ sel) ++ op

/-- The CTRL value of an operation (rule R58). -/
def encode : Instr → Byte
  | .crcgen   => ctrlWord 0 0x1
  | .frmc     => ctrlWord 0 0x2
  | .frmcd    => ctrlWord 0 0x3
  | .chk1 k   => ctrlWord k 0x4
  | .chk2     => ctrlWord 0 0x5
  | .chk3     => ctrlWord 0 0x6
  | .tdec k   => ctrlWord k 0x7
  | .hdec k   => ctrlWord k 0x8
  | .tenc k   => ctrlWord k 0x9
  | .henc k   => ctrlWord k 0xA
  | .thpk     => ctrlWord 0 0xB
  | .ofsenc   => ctrlWord 0 0xC
  | .ofsdec k => ctrlWord k 0xD

/-- The CTRL byte of an opcode-table word of `nbits` bits: every operation is exactly 8 bits
(rule R56), and bits above `nbits` are 0. -/
def tableByte (nbits w : Nat) : Byte := BitVec.ofNat 8 (w % 2 ^ nbits)

/-- What the decoder reads from the table's numbering of a word: none where it rejects it, and
none for a word longer than the one 8-bit format of rule R56. -/
def decodeTableWord (nbits w : Nat) : Option Instr :=
  if nbits ≤ 8 then (decode (tableByte nbits w)).toOption else none

end Sys2Proof
end

