-- ==== Sys2Proof/Config.lean ====
section
/-!
DEFINITION. The implementation parameters of the CVAC (rules R9, R10 and R40).
`ENC_ROUND_T` is left open by rule R9; a model takes it as an argument. Its value stands in `State`
(`encRoundT`), so that every statement over all states holds for both roundings.
-/

namespace Sys2Proof

/-- The domain of `ENC_ROUND_T` and `ENC_ROUND_H` (rules R9, R10 and R15). -/
inductive Rounding where
  /-- toward zero -/
  | trunc
  /-- to nearest, ties away from zero -/
  | halfAway
  deriving DecidableEq, Repr

/-- `ENC_ROUND_H` is fixed to `TRUNC` (rule R10, decision D4). -/
def Config.encRoundH : Rounding := .trunc

/-- `CVAC_BASE`, where the integrating platform puts the register-number space (rule R40).
No rule reads it, so it has no body and nothing in the model uses it. -/
opaque Config.cvacBase : Nat

end Sys2Proof
end

