-- ==== Sys2Proof/Machine/Binary64.lean ====
section
/-!
DEFINITION. IEEE 754 binary64 arithmetic as rules R8, R14, R15 and R98 use it: round to nearest, ties to
even, subnormals kept, no flags. Every finite value is an integer multiple of 2^-1074; that integer is
called its magnitude in UNITS. An operation converts to units, computes exactly on integers, and rounds
once at the end.
-/

namespace Sys2Proof.Machine

/-- 2^1074, the number of units in 1.0. -/
def unitsPerOne : Nat := 2 ^ 1074

/-- The magnitude pattern of infinity: exponent field all ones, fraction 0. -/
def infMag : Nat := 0x7FF * 2 ^ 52

/-- Bit 63. -/
def f64Sign (a : F64) : Bool := a.getLsbD 63

/-- The low 63 bits: the pattern without its sign. -/
def f64MagBits (a : F64) : Nat := a.toNat % 2 ^ 63

/-- The biased exponent, bits 62:52. -/
def f64Exp (a : F64) : Nat := f64MagBits a / 2 ^ 52

/-- The fraction, bits 51:0. -/
def f64Frac (a : F64) : Nat := a.toNat % 2 ^ 52

/-- `isNaN(a)` (rule R14). -/
def isNaN (a : F64) : Bool := decide (infMag < f64MagBits a)

/-- `isInf(a)` (rule R14). -/
def isInf (a : F64) : Bool := decide (f64MagBits a = infMag)

/-- Neither NaN nor infinite. -/
def isFinite (a : F64) : Bool := decide (f64MagBits a < infMag)

/-- The magnitude in units of a pattern without sign: subnormal where the exponent field is 0. -/
def magUnits (p : Nat) : Nat :=
  if p / 2 ^ 52 = 0 then p % 2 ^ 52 else (2 ^ 52 + p % 2 ^ 52) * 2 ^ (p / 2 ^ 52 - 1)

/-- `|a|` in units, for a finite `a`. -/
def f64Mag (a : F64) : Nat := magUnits (f64MagBits a)

/-- The exact value of a finite `a` in units. -/
def f64Units (a : F64) : Int := if f64Sign a then -(f64Mag a : Int) else (f64Mag a : Int)

/-- The pattern with a sign bit and the 63 bits `mag`. -/
def f64Pack (sign : Bool) (mag : Nat) : F64 := BitVec.ofBool sign ++ BitVec.ofNat 63 mag

/-- The quiet NaN an invalid operation gives. No operation of the CVAC ever writes a NaN (rule R98). -/
def f64NaN : F64 := 0x7FF8000000000000

/-- The exponent (in units, a power of two) of the last place of a quotient whose integer part is `q`. -/
def roundExp (q : Nat) : Nat := if q < 2 ^ 53 then 0 else Nat.log2 q - 52

/-- `n / d` to the nearest integer, ties to even. -/
def roundHalfEven (n d : Nat) : Nat :=
  let m := n / d
  let r := n % d
  if d < 2 * r ∨ (2 * r = d ∧ m % 2 = 1) then m + 1 else m

/-- The magnitude pattern nearest to `n / d` units, ties to even, infinity on overflow (rule R8).
A carry out of the significand moves into the exponent field by itself. -/
def roundMag (n d : Nat) : Nat :=
  let e := roundExp (n / d)
  min (e * 2 ^ 52 + roundHalfEven n (d * 2 ^ e)) infMag

/-- `f64(n)` (rule R14), exact for every 16-bit `n`. -/
def f64OfNat (n : Nat) : F64 := f64Pack false (roundMag (n * unitsPerOne) 1)

/-- `fneg(a)`: flips the sign bit only (rule R14). -/
def fneg (a : F64) : F64 := a ^^^ 0x8000000000000000

/-- `fabs(a)`: clears the sign bit only (rule R14). -/
def fabs (a : F64) : F64 := a &&& 0x7FFFFFFFFFFFFFFF

/-- The sum of two finite values: exact, rounded once; an exact zero is +0 unless both are negative. -/
def faddFinite (a b : F64) : F64 :=
  let u := f64Units a + f64Units b
  if u = 0 then f64Pack (f64Sign a && f64Sign b) 0
  else f64Pack (decide (u < 0)) (roundMag u.natAbs 1)

/-- `fadd(a, b)` (rule R14). -/
def fadd (a b : F64) : F64 :=
  if isNaN a || isNaN b then f64NaN
  else if isInf a then (if isInf b && (f64Sign a != f64Sign b) then f64NaN else a)
  else if isInf b then b
  else faddFinite a b

/-- `fsub(a, b)` (rule R14): the sum with the sign of `b` flipped. -/
def fsub (a b : F64) : F64 := fadd a (fneg b)

/-- `fmul(a, b)` (rule R14). -/
def fmul (a b : F64) : F64 :=
  let sign := f64Sign a != f64Sign b
  if isNaN a || isNaN b then f64NaN
  else if isInf a then (if f64MagBits b = 0 then f64NaN else f64Pack sign infMag)
  else if isInf b then (if f64MagBits a = 0 then f64NaN else f64Pack sign infMag)
  else f64Pack sign (roundMag (f64Mag a * f64Mag b) unitsPerOne)

/-- `fdiv(a, b)` (rule R14). -/
def fdiv (a b : F64) : F64 :=
  let sign := f64Sign a != f64Sign b
  if isNaN a || isNaN b then f64NaN
  else if isInf a then (if isInf b then f64NaN else f64Pack sign infMag)
  else if isInf b then f64Pack sign 0
  else if f64MagBits b = 0 then (if f64MagBits a = 0 then f64NaN else f64Pack sign infMag)
  else f64Pack sign (roundMag (f64Mag a * unitsPerOne) (f64Mag b))

/-- `fge0(a)`: the comparison `a >= +0.0`, true for both zeros, false for NaN (rule R14). -/
def fge0 (a : F64) : Bool := !isNaN a && (!f64Sign a || f64MagBits a = 0)

/-- `|q|` rounded to an integer, for a finite `q`: exact on its real value (rule R15). -/
def roundAbs : Rounding → F64 → Nat
  | .trunc,    q => f64Mag q / unitsPerOne
  | .halfAway, q => (2 * f64Mag q + unitsPerOne) / (2 * unitsPerOne)

/-- `TRUNC(q)` or `HALF_AWAY(q)`, for a finite `q`: the sign is `q`'s (rule R15). -/
def roundInt (r : Rounding) (q : F64) : Int :=
  if f64Sign q then -(roundAbs r q : Int) else (roundAbs r q : Int)

end Sys2Proof.Machine
end

