-- ==== Sys2Proof/Machine/State.lean ====
section
/-!
DEFINITION. The CVAC's state: the register map of rule R21 with the unwritten marks of rule R23,
the host's accesses still to be performed, what its reads returned, the fault record of rule R105,
and the state after reset (rule R38).
-/

namespace Sys2Proof.Machine

/-- A register of rule R21 by name. `OUT[k]`, `IN[k]` and `WORD[k]` are numbered. -/
inductive Reg where
  | ctrl | status | cmd | data | crc | outlen
  | out (k : Fin 5)
  | inb (k : Fin 9)
  | word (k : Fin 3)
  | xt | xh | yt | yh
  deriving DecidableEq, Repr

/-- A register that reset leaves unwritten: its bits and whether anything has written it since reset
(the mark of rule R23, `written = false` meaning marked unwritten). -/
structure Slot (w : Nat) where
  val : BitVec w
  written : Bool
  deriving DecidableEq, Repr

/-- A slot just written with `v` (rule R23: a write clears the mark). -/
def Slot.of {w : Nat} (v : BitVec w) : Slot w := ⟨v, true⟩

/-- A slot after reset: marked unwritten. Its bits are a named value, 0, which the spec does not give
(DESIGN CHOICE, log entry 1). -/
def Slot.unwritten (w : Nat) : Slot w := ⟨0, false⟩

/-- The whole architectural state (rule R25): the registers of rule R21 and the unwritten marks. -/
structure RegFile where
  /-- 0x00, the last value written to CTRL (R26) -/
  ctrl : Byte
  /-- 0x01, `{00, GRP, ERR, OK}` (R27) -/
  status : Byte
  /-- 0x02 (R29) -/
  cmd : Slot 16
  /-- 0x03 (R30) -/
  data : Slot 16
  /-- 0x04 (R31) -/
  crc : Slot 8
  /-- 0x05 (R32) -/
  outlen : Byte
  /-- 0x08 to 0x0C (R32) -/
  out : Vector (Slot 8) 5
  /-- 0x10 to 0x18 (R33) -/
  inb : Vector (Slot 8) 9
  /-- 0x20 to 0x22 (R34) -/
  word : Vector (Slot 16) 3
  /-- 0x30 (R35) -/
  xt : Slot 64
  /-- 0x31 (R35) -/
  xh : Slot 64
  /-- 0x32 (R36) -/
  yt : Slot 64
  /-- 0x33 (R36) -/
  yh : Slot 64
  deriving DecidableEq, Repr

/-- The register file after reset (rule R38). -/
def RegFile.reset : RegFile where
  ctrl := 0x00
  status := 0x00
  cmd := .unwritten 16
  data := .unwritten 16
  crc := .unwritten 8
  outlen := 0x00
  out := Vector.replicate 5 (.unwritten 8)
  inb := Vector.replicate 9 (.unwritten 8)
  word := Vector.replicate 3 (.unwritten 16)
  xt := .unwritten 64
  xh := .unwritten 64
  yt := .unwritten 64
  yh := .unwritten 64

/-- What the world outside does to the block, one at a time (rules R19, R20 and R118). -/
inductive HostAccess where
  /-- `RegWrite(n, v)` -/
  | write (n : Byte) (v : RegValue)
  /-- `RegRead(n)` -/
  | read (n : Byte)
  /-- the reset input, asserted between two host accesses -/
  | reset
  deriving DecidableEq, Repr

/-- The fault record of rule R105: the unwritten registers that were read, in the order the operation's
rule lists its sources, and the registers as they stood at that read. -/
structure UnwrittenRecord where
  sources : List Reg
  regs : RegFile
  deriving DecidableEq, Repr

/-- The machine. `regs` is the spec's; the other fields are the model's own, as INVENTORY.md says. -/
structure State where
  /-- registers and unwritten marks (R21, R23) -/
  regs : RegFile
  /-- parameter `ENC_ROUND_T`, open (R9); no step changes it -/
  encRoundT : Rounding
  /-- the host's accesses still to be performed, first one first (R24, R51) -/
  pending : List HostAccess
  /-- the values the host's reads have returned, latest first (R20) -/
  reads : List RegValue
  /-- the fault record `UNWRITTEN`, none or the first one; never cleared (R105, R127) -/
  unwrittenFault : Option UnwrittenRecord
  deriving DecidableEq, Repr

/-- The machine right after reset: rule R38's registers, no access yet, no fault.
`ENC_ROUND_T` is the reference setting `TRUNC` of rule R9 (DESIGN CHOICE, log entry 3). -/
def State.reset : State where
  regs := .reset
  encRoundT := .trunc
  pending := []
  reads := []
  unwrittenFault := none

/-- An error an operation raises (rule R101). -/
inductive OpError where
  /-- `CrcError`, code 1, with the lowest failing group (R103) -/
  | crcError (group : Fin 3)
  /-- `RangeError`, code 2, with the failing lane: 0 temperature, 1 humidity (R104) -/
  | rangeError (lane : Fin 2)
  /-- `IllegalOp`, code 3 (R102) -/
  | illegalOp
  deriving DecidableEq, Repr

/-- Why a machine stops with a fault. -/
inductive Fault where
  /-- `UNWRITTEN` (R105). `Machine.step` never raises it: there the read is recorded in
  `State.unwrittenFault` and the operation proceeds as rule R105 says the hardware does.
  `Safety.strictStep` raises it at the first recorded read, as rule R105 says a model does. Safe. -/
  | unwritten (record : UnwrittenRecord)
  deriving DecidableEq, Repr

/-- Why the model gives a step no meaning. -/
inductive Refusal where
  /-- an arm of `exec` that has no meaning yet; no arm raises it -/
  | notModelled (mnemonic : String)
  /-- a `RegWrite` whose value has another width than the register: rule R20 says a model refuses it.
  Raised by a host write, never by an operation. Safe. -/
  | widthMismatch (reg : Reg) (v : RegValue)
  deriving DecidableEq, Repr

/-- The outcomes of a step of this machine. -/
abbrev Result := Host.Outcome State Fault Refusal

end Sys2Proof.Machine
end

