-- ==== Sys2Proof/Machine/Operands.lean ====
section
/-!
DEFINITION. The operand forms: the WORD register SEL names (rule R57), the sources of an operation by
name (rule R121), bytes of a word (rule R41) and the register-number space (rules R20 to R22).
-/

namespace Sys2Proof.Machine

/-- The WORD register SEL names; `k = 3` names none (rule R57). -/
def wordIndex (k : BitVec 2) : Option (Fin 3) :=
  if h : k.toNat < 3 then some ⟨k.toNat, h⟩ else none

/-- `w[15:8]`, the byte that goes first on the wire (rule R41). -/
def highByte (w : Word16) : Byte := w.extractLsb' 8 8

/-- `w[7:0]` (rule R41). -/
def lowByte (w : Word16) : Byte := w.extractLsb' 0 8

/-- `{hi, lo}` (rules R12 and R43). -/
def bytesToWord (hi lo : Byte) : Word16 := hi ++ lo

/-- Whether a register holds a written value: CTRL, STATUS and OUTLEN always do (rules R23, R38). -/
def isWritten (f : RegFile) : Reg → Bool
  | .ctrl   => true
  | .status => true
  | .cmd    => f.cmd.written
  | .data   => f.data.written
  | .crc    => f.crc.written
  | .outlen => true
  | .out k  => f.out[k].written
  | .inb k  => f.inb[k].written
  | .word k => f.word[k].written
  | .xt     => f.xt.written
  | .xh     => f.xh.written
  | .yt     => f.yt.written
  | .yh     => f.yh.written

/-- The bits a register holds, at its own width (rule R20). -/
def regValue (f : RegFile) : Reg → RegValue
  | .ctrl   => .b8 f.ctrl
  | .status => .b8 f.status
  | .cmd    => .b16 f.cmd.val
  | .data   => .b16 f.data.val
  | .crc    => .b8 f.crc.val
  | .outlen => .b8 f.outlen
  | .out k  => .b8 f.out[k].val
  | .inb k  => .b8 f.inb[k].val
  | .word k => .b16 f.word[k].val
  | .xt     => .b64 f.xt.val
  | .xh     => .b64 f.xh.val
  | .yt     => .b64 f.yt.val
  | .yh     => .b64 f.yh.val

/-- The register at a number of the 8-bit register-number space, none where it is unassigned (R21). -/
def regOfNumber (n : Byte) : Option Reg :=
  let a := n.toNat
  if a = 0x00 then some .ctrl
  else if a = 0x01 then some .status
  else if a = 0x02 then some .cmd
  else if a = 0x03 then some .data
  else if a = 0x04 then some .crc
  else if a = 0x05 then some .outlen
  else if h : 0x08 ≤ a ∧ a ≤ 0x0C then some (.out ⟨a - 0x08, by omega⟩)
  else if h : 0x10 ≤ a ∧ a ≤ 0x18 then some (.inb ⟨a - 0x10, by omega⟩)
  else if h : 0x20 ≤ a ∧ a ≤ 0x22 then some (.word ⟨a - 0x20, by omega⟩)
  else if a = 0x30 then some .xt
  else if a = 0x31 then some .xh
  else if a = 0x32 then some .yt
  else if a = 0x33 then some .yh
  else none

/-- The number of a register (rule R21). -/
def numberOfReg : Reg → Byte
  | .ctrl   => 0x00
  | .status => 0x01
  | .cmd    => 0x02
  | .data   => 0x03
  | .crc    => 0x04
  | .outlen => 0x05
  | .out k  => BitVec.ofNat 8 (0x08 + k.val)
  | .inb k  => BitVec.ofNat 8 (0x10 + k.val)
  | .word k => BitVec.ofNat 8 (0x20 + k.val)
  | .xt     => 0x30
  | .xh     => 0x31
  | .yt     => 0x32
  | .yh     => 0x33

/-- The registers a host write does not change (rule R22). -/
def readOnly : Reg → Bool
  | .status => true
  | .crc    => true
  | .outlen => true
  | .out _  => true
  | .yt     => true
  | .yh     => true
  | .ctrl   => false
  | .cmd    => false
  | .data   => false
  | .inb _  => false
  | .word _ => false
  | .xt     => false
  | .xh     => false

/-- A host write of a register other than CTRL: `none` where the value's width is not the register's
(rule R20), the file unchanged for a read-only register (rule R22), the value stored and the mark
cleared otherwise (rules R22, R23). CTRL is stored here too; the operation it starts is the host
port's. -/
def storeReg (f : RegFile) : Reg → RegValue → Option RegFile
  | .ctrl,   .b8 v  => some { f with ctrl := v }
  | .status, .b8 _  => some f
  | .cmd,    .b16 v => some { f with cmd := .of v }
  | .data,   .b16 v => some { f with data := .of v }
  | .crc,    .b8 _  => some f
  | .outlen, .b8 _  => some f
  | .out _,  .b8 _  => some f
  | .inb k,  .b8 v  => some { f with inb := f.inb.set k (.of v) }
  | .word k, .b16 v => some { f with word := f.word.set k (.of v) }
  | .xt,     .b64 v => some { f with xt := .of v }
  | .xh,     .b64 v => some { f with xh := .of v }
  | .yt,     .b64 _ => some f
  | .yh,     .b64 _ => some f
  | _,       _      => none

end Sys2Proof.Machine
end

