-- ==== Sys2Proof/Machine/Convert.lean ====
section
/-!
DEFINITION. The converter's functions: the temperature and humidity maps (rules R82 to R85), the offset
byte (rules R87 to R89) and the packed words (rules R65 and R67). Each formula runs in its written order,
one rounding a step, nothing fused (rule R8). `none` is the spec's `fail`.
-/

namespace Sys2Proof.Machine

/-- 65535.0 -/
def c65535 : F64 := 0x40EFFFE000000000
/-- 175.0 -/
def c175 : F64 := 0x4065E00000000000
/-- 100.0 -/
def c100 : F64 := 0x4059000000000000
/-- 45.0 -/
def c45 : F64 := 0x4046800000000000
/-- LSB_T = 0.1708984375 = 175/1024 (rule R87) -/
def lsbT : F64 := 0x3FC5E00000000000
/-- LSB_H = 0.1953125 = 25/128 (rule R87) -/
def lsbH : F64 := 0x3FC9000000000000

/-- `decT(r)` (rule R82). -/
def decT (r : Word16) : F64 := fsub (fmul (fdiv (f64OfNat r.toNat) c65535) c175) c45

/-- `decH(r)` (rule R83). -/
def decH (r : Word16) : F64 := fmul (fdiv (f64OfNat r.toNat) c65535) c100

/-- The last steps of `encT` and `encH`: round `q` to an integer, fail outside 0 to 65535. -/
def toCode (r : Rounding) (q : F64) : Option Word16 :=
  if isInf q then none
  else
    let n := roundInt r q
    if n < 0 ∨ 65535 < n then none else some (BitVec.ofInt 16 n)

/-- `encT(T)` under the parameter `ENC_ROUND_T` (rule R84). -/
def encT (r : Rounding) (t : F64) : Option Word16 :=
  if isNaN t then none else toCode r (fmul (fdiv (fadd t c45) c175) c65535)

/-- `encH(H)`, `ENC_ROUND_H` fixed (rules R85 and R10). -/
def encH (h : F64) : Option Word16 :=
  if isNaN h then none else toCode Config.encRoundH (fmul (fdiv h c100) c65535)

/-- The offset byte `{S, M}` (rule R66). -/
def offByte (s : Bool) (m : Nat) : Byte := BitVec.ofBool s ++ BitVec.ofNat 7 m

/-- `offEnc(v, lsb)` (rule R88): magnitude by HALF_AWAY, at most 127; S set when v >= 0. -/
def offEnc (v lsb : F64) : Option Byte :=
  if isNaN v then none
  else
    let q := fdiv (fabs v) lsb
    if isInf q then none
    else
      let m := roundAbs .halfAway q
      if 127 < m then none else some (offByte (fge0 v) m)

/-- `offDec(b, lsb)` (rule R89): negated when S is clear. -/
def offDec (b : Byte) (lsb : F64) : F64 :=
  let y := fmul (f64OfNat (b.extractLsb' 0 7).toNat) lsb
  if b.getLsbD 7 then y else fneg y

/-- The alert-threshold word `{h[15:9], t[15:7]}` (rule R65). -/
def thresholdWord (t h : Word16) : Word16 := h.extractLsb' 9 7 ++ t.extractLsb' 7 9

/-- The offset word: humidity byte high, temperature byte low (rules R45 and R67). -/
def offsetWord (hi lo : Byte) : Word16 := hi ++ lo

end Sys2Proof.Machine
end

