-- ==== Sys2Proof/Machine/Flags.lean ====
section
/-!
DEFINITION. STATUS: its one flag OK, the error code ERR and the index GRP (rules R27, R28 and R101).
-/

namespace Sys2Proof.Machine

/-- `{00, GRP, ERR, OK}` (rule R27). -/
def statusWord (grp : BitVec 2) (err : BitVec 3) (ok : BitVec 1) : Byte :=
  ((0#2 ++ grp) ++ err) ++ ok

/-- STATUS after an operation that completed without error: 0x01 (rule R75 step 5). -/
def statusOk : Byte := statusWord 0 0 1

/-- `code(E)` (rule R101). -/
def errorCode : OpError → BitVec 3
  | .crcError _   => 1
  | .rangeError _ => 2
  | .illegalOp    => 3

/-- `g`: the failing group or lane, 0 for `IllegalOp` (rule R101). -/
def errorIndex : OpError → BitVec 2
  | .crcError g   => BitVec.ofNat 2 g.val
  | .rangeError l => BitVec.ofNat 2 l.val
  | .illegalOp    => 0

/-- STATUS after `raise E(g)`: `{00, g, code(E), 0}` (rule R101). -/
def statusOfError (e : OpError) : Byte := statusWord (errorIndex e) (errorCode e) 0

/-- The OK bit, bit 0, the CVAC's only flag (rule R28). -/
def statusOkBit (v : Byte) : Bool := v.getLsbD 0

/-- ERR, bits 3:1 (rule R27). -/
def statusErr (v : Byte) : BitVec 3 := v.extractLsb' 1 3

/-- GRP, bits 5:4 (rule R27). -/
def statusGrp (v : Byte) : BitVec 2 := v.extractLsb' 4 2

end Sys2Proof.Machine
end

