-- ==== Sys2Proof/Machine/Ops.lean ====
section
/-!
DEFINITION. The shared operations every meaning is written over: noting a read of an unwritten register
(rules R23, R105), raising an error (rules R100, R101) and the operation frame (rule R75).
The CVAC has no memory, no program counter and no return from an error (rules R39, R24, R109).
-/

namespace Sys2Proof.Machine

/-- The fault record after reading `srcs`: the first record stays (R105: it is never cleared); else the
unwritten ones among `srcs`, with the registers as they stand, if there are any. -/
def recordAfter (s : State) (srcs : List Reg) : Option UnwrittenRecord :=
  match s.unwrittenFault with
  | some r => some r
  | none =>
    match srcs.filter (fun r => !isWritten s.regs r) with
    | [] => none
    | r :: rs => some ⟨r :: rs, s.regs⟩

/-- Read `srcs`: all of them, before any computation (rule R75 step 2). The values are read from the
register file; an unwritten one yields the bits it holds, and the read is recorded (R105). -/
def noteReads (s : State) (srcs : List Reg) : State :=
  { s with unwrittenFault := recordAfter s srcs }

/-- `raise E(g)`: STATUS is written and nothing else (rules R100, R101 and R108). -/
def raise (e : OpError) (s : State) : State :=
  { s with regs := { s.regs with status := statusOfError e } }

/-- Success: the destinations are written all at once and STATUS is 0x01 (rule R75 steps 4 and 5). -/
def commit (f : RegFile) (s : State) : State :=
  { s with regs := { f with status := statusOk } }

/-- Steps 2 to 5 of the operation frame (rule R75): read every source, compute from the registers as
they are, then either raise or write every destination at once. -/
def perform (srcs : List Reg) (compute : RegFile → Except OpError RegFile) (s : State) : State :=
  match compute s.regs with
  | .error e => raise e (noteReads s srcs)
  | .ok f    => commit f (noteReads s srcs)

/-- An operation with the operand SEL: `k = 3` is illegal and reads no source (rules R57, R102). -/
def performSel (k : BitVec 2) (op : Fin 3 → State → State) (s : State) : State :=
  match wordIndex k with
  | none   => raise .illegalOp s
  | some i => op i s

end Sys2Proof.Machine
end

