-- ==== Sys2Proof/Machine/Conversion.lean ====
section
/-!
DEFINITION. The seven conversion operations: TDEC, HDEC, TENC, HENC, THPK, OFSENC and OFSDEC
(rules R91 to R97).
-/

namespace Sys2Proof.Machine

/-- A converter result in one lane: `fail` raises `RangeError(lane)` (rule R104). -/
def inLane {α : Type} (lane : Fin 2) : Option α → Except OpError α
  | none   => .error (.rangeError lane)
  | some v => .ok v

/-- Two lanes, both computed; temperature, lane 0, is reported before humidity (rules R95 and R107). -/
def twoLanes {α β γ : Type} (t : Option α) (h : Option β) (k : α → β → γ) : Except OpError γ :=
  match inLane 0 t, inLane 1 h with
  | .error e, _     => .error e
  | .ok _, .error e => .error e
  | .ok a, .ok b    => .ok (k a b)

/-- TDEC k: YT from WORD[k] (R91). -/
def execTdec (k : BitVec 2) (s : State) : Result :=
  .next (performSel k (fun i => perform [.word i]
    (fun f => .ok { f with yt := .of (decT f.word[i].val) })) s)

/-- HDEC k: YH from WORD[k] (R92). -/
def execHdec (k : BitVec 2) (s : State) : Result :=
  .next (performSel k (fun i => perform [.word i]
    (fun f => .ok { f with yh := .of (decH f.word[i].val) })) s)

/-- The file with a raw code in `WORD[k]`, or the lane's `RangeError`. -/
def codeInto (lane : Fin 2) (i : Fin 3) (f : RegFile) (c : Option Word16) : Except OpError RegFile :=
  match inLane lane c with
  | .error e => .error e
  | .ok w    => .ok { f with word := f.word.set i (.of w) }

/-- TENC k: WORD[k] from XT (R93), lane 0. -/
def execTenc (k : BitVec 2) (s : State) : Result :=
  .next (performSel k (fun i => perform [.xt]
    (fun f => codeInto 0 i f (encT s.encRoundT f.xt.val))) s)

/-- HENC k: WORD[k] from XH (R94), lane 1. -/
def execHenc (k : BitVec 2) (s : State) : Result :=
  .next (performSel k (fun i => perform [.xh]
    (fun f => codeInto 1 i f (encH f.xh.val))) s)

/-- THPK: the alert-threshold word of XT and XH into DATA (R95). -/
def execThpk (s : State) : Result :=
  .next (perform [.xt, .xh]
    (fun f => twoLanes (encT s.encRoundT f.xt.val) (encH f.xh.val)
      (fun t h => { f with data := .of (thresholdWord t h) })) s)

/-- OFSENC: the offset word of XT and XH into DATA (R96). -/
def execOfsenc (s : State) : Result :=
  .next (perform [.xt, .xh]
    (fun f => twoLanes (offEnc f.xt.val lsbT) (offEnc f.xh.val lsbH)
      (fun lo hi => { f with data := .of (offsetWord hi lo) })) s)

/-- OFSDEC k: YH from the high byte of WORD[k], YT from the low byte (R97). -/
def execOfsdec (k : BitVec 2) (s : State) : Result :=
  .next (performSel k (fun i => perform [.word i]
    (fun f => .ok { f with
      yh := .of (offDec (highByte f.word[i].val) lsbH)
      yt := .of (offDec (lowByte f.word[i].val) lsbT) })) s)

end Sys2Proof.Machine
end

