-- ==== Sys2Proof/Machine/Crc.lean ====
section
/-!
DEFINITION. The CRC-8 function and the group check (rules R71 and R73).
-/

namespace Sys2Proof.Machine

/-- One of the 8 shifts of rule R71: polynomial 0x31, the bit shifted out of bit 7 is lost. -/
def crcShift (acc : Byte) : Byte := if acc.getLsbD 7 then (acc <<< 1) ^^^ 0x31 else acc <<< 1

/-- `n` shifts. -/
def crcShifts : Nat → Byte → Byte
  | 0, acc     => acc
  | n + 1, acc => crcShifts n (crcShift acc)

/-- One byte into the accumulator: XOR it in, then 8 shifts (rule R71). -/
def crcByte (acc byte : Byte) : Byte := crcShifts 8 (acc ^^^ byte)

/-- `crc8(b1, b0)`: initial value 0xFF, `b1` first, no final XOR (rule R71). -/
def crc8 (b1 b0 : Byte) : Byte := crcByte (crcByte 0xFF b1) b0

/-- The CRC of a payload word, high byte first (rules R41 and R71). -/
def crcOfWord (w : Word16) : Byte := crc8 (highByte w) (lowByte w)

/-- `IN[3g + j]`, byte `j` of group `g` (rule R33). -/
def groupByte (f : RegFile) (g j : Fin 3) : Byte :=
  (f.inb[3 * g.val + j.val]'(by omega)).val

/-- `grpok(g)` (rule R73). -/
def groupOk (f : RegFile) (g : Fin 3) : Bool :=
  crc8 (groupByte f g 0) (groupByte f g 1) == groupByte f g 2

/-- `grpword(g)` (rule R73). -/
def groupWord (f : RegFile) (g : Fin 3) : Word16 :=
  bytesToWord (groupByte f g 0) (groupByte f g 1)

/-- The lowest-numbered failing group among `gs`, given in rising order (rule R74). -/
def firstBadGroup (f : RegFile) : List (Fin 3) → Option (Fin 3)
  | []      => none
  | g :: gs => if groupOk f g then firstBadGroup f gs else some g

/-- All or nothing (rule R74): every group is checked; the lowest failing one is reported. -/
def checkGroups (gs : List (Fin 3)) (f g : RegFile) : Except OpError RegFile :=
  match firstBadGroup f gs with
  | some b => .error (.crcError b)
  | none   => .ok g

end Sys2Proof.Machine
end

