-- ==== Sys2Proof/Machine/CrcFrames.lean ====
section
/-!
DEFINITION. The six CRC and frame operations: CRCGEN, FRMC, FRMCD, CHK1, CHK2 and CHK3
(rules R76 to R81).
-/

namespace Sys2Proof.Machine

/-- The sources of a check of one, two or three groups: IN0 up to IN8 (rule R121). -/
def groupSources (gs : List (Fin 3)) : List Reg :=
  gs.flatMap (fun g => [.inb ⟨3 * g.val, by omega⟩, .inb ⟨3 * g.val + 1, by omega⟩,
    .inb ⟨3 * g.val + 2, by omega⟩])

/-- CRCGEN: the CRC of DATA (R76). -/
def execCrcgen (s : State) : Result :=
  .next (perform [.data] (fun f => .ok { f with crc := .of (crcOfWord f.data.val) }) s)

/-- The file with `OUT[k]` written. -/
def putOut (f : RegFile) (k : Fin 5) (b : Byte) : RegFile := { f with out := f.out.set k (.of b) }

/-- The command word, high byte first, in OUT0 and OUT1 (rule R62). -/
def putCommand (f : RegFile) : RegFile :=
  putOut (putOut f 0 (highByte f.cmd.val)) 1 (lowByte f.cmd.val)

/-- FRMC: the 2-byte command frame; OUT2 to OUT4 keep their values (R77). -/
def execFrmc (s : State) : Result :=
  .next (perform [.cmd] (fun f => .ok { putCommand f with outlen := 2 }) s)

/-- The five bytes of a command and data frame, in wire order; the CRC covers the data bytes only
(rules R42 and R63). -/
def frameBytes (cmd data : Word16) : Vector (Slot 8) 5 :=
  #v[.of (highByte cmd), .of (lowByte cmd), .of (highByte data), .of (lowByte data),
    .of (crcOfWord data)]

/-- The 5-byte frame of CMD and DATA, its CRC and its length (rule R78). -/
def putFrame (f : RegFile) : RegFile :=
  { f with
    out := frameBytes f.cmd.val f.data.val
    crc := .of (crcOfWord f.data.val)
    outlen := 5 }

/-- FRMCD: the 5-byte command and data frame (R78). -/
def execFrmcd (s : State) : Result :=
  .next (perform [.cmd, .data] (fun f => .ok (putFrame f)) s)

/-- The file with `WORD[k]` written. -/
def putWord (f : RegFile) (k : Fin 3) (w : Word16) : RegFile :=
  { f with word := f.word.set k (.of w) }

/-- CHK1 k: one group, always group 0, into WORD[k] (R79). -/
def execChk1 (k : BitVec 2) (s : State) : Result :=
  .next (performSel k (fun i => perform (groupSources [0])
    (fun f => checkGroups [0] f (putWord f i (groupWord f 0)))) s)

/-- CHK2: two groups into WORD0 and WORD1, all or nothing (R80). -/
def execChk2 (s : State) : Result :=
  .next (perform (groupSources [0, 1])
    (fun f => checkGroups [0, 1] f (putWord (putWord f 0 (groupWord f 0)) 1 (groupWord f 1))) s)

/-- CHK3: three groups into WORD0 to WORD2, all or nothing (R81). -/
def execChk3 (s : State) : Result :=
  .next (perform (groupSources [0, 1, 2])
    (fun f => checkGroups [0, 1, 2] f
      (putWord (putWord (putWord f 0 (groupWord f 0)) 1 (groupWord f 1)) 2 (groupWord f 2))) s)

end Sys2Proof.Machine
end

