-- ==== Sys2Proof/Machine/Dispatch.lean ====
section
/-!
DEFINITION. The engine: one arm per operation (rule R58).
-/

namespace Sys2Proof.Machine

/-- One operation, CTRL having been stored and decoded (rule R75 steps 2 to 5). -/
def exec (i : Instr) (s : State) : Host.Outcome State Fault Refusal :=
  match i with
  | .crcgen => Sys2Proof.Machine.execCrcgen s
  | .frmc => Sys2Proof.Machine.execFrmc s
  | .frmcd => Sys2Proof.Machine.execFrmcd s
  | .chk1 k => Sys2Proof.Machine.execChk1 k s
  | .chk2 => Sys2Proof.Machine.execChk2 s
  | .chk3 => Sys2Proof.Machine.execChk3 s
  | .tdec k => Sys2Proof.Machine.execTdec k s
  | .hdec k => Sys2Proof.Machine.execHdec k s
  | .tenc k => Sys2Proof.Machine.execTenc k s
  | .henc k => Sys2Proof.Machine.execHenc k s
  | .thpk => Sys2Proof.Machine.execThpk s
  | .ofsenc => Sys2Proof.Machine.execOfsenc s
  | .ofsdec k => Sys2Proof.Machine.execOfsdec k s

end Sys2Proof.Machine
end

