-- ==== Sys2Proof/Machine/HostPort.lean ====
section
/-!
DEFINITION. What a host access does (rules R20, R22, R26, R49 and R118). The CVAC fetches nothing: an
operation starts when the host writes CTRL (rule R24).
-/

namespace Sys2Proof.Machine

/-- The operation a stored CTRL value starts: decoded, then performed; an illegal value raises
`IllegalOp` and reads no source (rules R59, R75 and R102). -/
def startOperation (v : Byte) (s : State) : Result :=
  match decode v with
  | .error _ => .next (raise .illegalOp s)
  | .ok i    => exec i s

/-- `RegWrite(n, v)`: no effect at an unassigned number (R22); refused where the width differs (R20);
a write of CTRL stores the value, then performs its operation, as one step (R26, R120). -/
def hostWrite (n : Byte) (v : RegValue) (s : State) : Result :=
  match regOfNumber n with
  | none => .next s
  | some r =>
    match storeReg s.regs r v with
    | none   => .refused (.widthMismatch r v)
    | some f => if r = .ctrl then startOperation f.ctrl { s with regs := f } else .next { s with regs := f }

/-- `RegRead(n)`: the register's whole value; 0 of width 8 at an unassigned number (R22). No side effect
on the registers (R49). A read of an unwritten register returns the bits it holds and is recorded
(R105). -/
def hostRead (n : Byte) (s : State) : State :=
  match regOfNumber n with
  | none   => { s with reads := .b8 0 :: s.reads }
  | some r => { noteReads s [r] with reads := regValue s.regs r :: s.reads }

/-- The reset input (rule R118): every register as rule R38 says. The fault record stays (R105), and
what the host has read or will still do is the host's own. -/
def hostReset (s : State) : State := { s with regs := .reset }

/-- One host access, or a reset between two of them. -/
def hostAccess (a : HostAccess) (s : State) : Result :=
  match a with
  | .write n v => hostWrite n v s
  | .read n    => .next (hostRead n s)
  | .reset     => .next (hostReset s)

/-- The host access that writes a CTRL value. -/
def ctrlWrite (v : Byte) : HostAccess := .write 0x00 (.b8 v)

end Sys2Proof.Machine
end

