-- ==== Sys2Proof/Machine/Step.lean ====
section
/-!
DEFINITION. One step of the machine: the host's next access, performed whole (rules R51 and R120).
-/

namespace Sys2Proof.Machine

/-- The host's next access is taken from `pending` and performed. With none left nothing happens: the
engine never acts on its own (rule R19). -/
def step (s : State) : Host.Outcome State Fault Refusal :=
  match s.pending with
  | []        => .next s
  | a :: rest => hostAccess a { s with pending := rest }

/-- `s` with the host about to write the operation's byte to CTRL, before anything else it would do:
the CVAC has no instruction memory, so this is all an operation takes to run (rule R24). -/
def State.withFetchWord (s : State) (nbits w : Nat) : State :=
  { s with pending := ctrlWrite (tableByte nbits w) :: s.pending }

end Sys2Proof.Machine
end

