-- ==== Sys2Proof/Safety.lean ====
section
/-!
DEFINITION. What a safe run is: one without an `UNWRITTEN` fault (rule R105: every claim about a program
takes that as a premise), and the step of a model that stops at that fault instead of recording it.
-/

namespace Sys2Proof

/-- No read of an unwritten register has been recorded (rule R105). -/
def Machine.State.clean (s : Machine.State) : Bool := s.unwrittenFault.isNone

namespace Safety

open Sys2Proof.Machine

/-- The step that records the fault and stops, as rules R23 and R105 say a model treats such a read:
no step follows a recorded fault, and the step that records one answers the fault. -/
def strictStep (s : State) : Result :=
  match s.unwrittenFault with
  | some r => .fault (.unwritten r)
  | none =>
    match step s with
    | .next t =>
      match t.unwrittenFault with
      | some r => .fault (.unwritten r)
      | none   => .next t
    | .fault r   => .fault r
    | .refused r => .refused r

/-- A run of `n` steps is safe from `s` when it answers a state without a recorded fault. -/
def SafeRun (n : Nat) (s : State) : Prop :=
  ∃ t, Sys2Proof.core.run n s = .next t ∧ t.clean = true

end Safety

end Sys2Proof
end

