-- ==== Sys2Proof/Certificates/Slice0/Obligations.lean ====
section
/-!
DEFINITION. The statements for the provers. The helpers before them are the statements' own words for
things the rules say more than once.
-/

namespace Sys2Proof.Claims

open Sys2Proof.Machine

/-- `s` with the host's write of `v` to CTRL taken off `pending` and stored (rule R26). -/
def stored (s : State) (v : Byte) (rest : List HostAccess) : State :=
  { s with pending := rest, regs := { s.regs with ctrl := v } }

/-- The sources among `srcs` that nothing has written since reset (rule R23). -/
def unwrittenOf (s : State) (srcs : List Reg) : List Reg :=
  srcs.filter (fun r => !isWritten s.regs r)

/-- The fault record after an operation or a read that reads `srcs` in `s`: an earlier record stays,
else the unwritten sources and the registers at the read, if there is one (rule R105). -/
def record (s : State) (srcs : List Reg) : Option UnwrittenRecord :=
  if s.unwrittenFault.isSome then s.unwrittenFault
  else if unwrittenOf s srcs = [] then none
  else some ⟨unwrittenOf s srcs, s.regs⟩

/-- Operation `i`, of CTRL value `v`, reads `srcs` and leaves the registers `result s`, everything else
unchanged but the fault record: as `exec`, and as a step that performs the host's write of `v`. Where a
source is unwritten, `exec` and `step` record every unwritten source with the registers and go on with
the bits the register holds, as R105 says the hardware does: that is the model's choice (log entries 2
and 7). The model that stops at `UNWRITTEN` stops there, exactly then (rules R75, R105). -/
def PerformsAs (i : Instr) (v : Byte) (srcs : List Reg) (result : State → RegFile) : Prop :=
  (∀ s : State, exec i s = .next { s with regs := result s, unwrittenFault := record s srcs }) ∧
  (∀ (s : State) (rest : List HostAccess), s.pending = .write 0x00 (.b8 v) :: rest →
    let s1 := stored s v rest
    step s = .next { s1 with regs := result s1, unwrittenFault := record s1 srcs } ∧
    (s.unwrittenFault = none → unwrittenOf s srcs ≠ [] →
      Safety.strictStep s = .fault (.unwritten ⟨unwrittenOf s srcs, s1.regs⟩)) ∧
    (s.unwrittenFault = none → unwrittenOf s srcs = [] → Safety.strictStep s = step s))

/-- Every CTRL value whose OP is `op` and that is not in `legal` is stored and raises `IllegalOp`:
STATUS is 0x06, nothing else changes, no source is read (rules R101, R102). -/
def IllegalBut (op : BitVec 4) (legal : List Byte) : Prop :=
  ∀ (s : State) (v : Byte) (rest : List HostAccess), s.pending = .write 0x00 (.b8 v) :: rest →
    v.extractLsb' 0 4 = op → v ∉ legal →
    step s = .next { stored s v rest with regs := { s.regs with ctrl := v, status := 0x06 } }

/-- Byte IN`j`. -/
def inByte (f : RegFile) (j : Fin 9) : Byte := f.inb[j].val

/-- `{hi, lo}` -/
def word16 (hi lo : Byte) : Word16 := hi ++ lo

/-- The rows of rule R58's table for the CRC and frame operations. -/
def opcodesOfFrames : List (Instr × Byte) :=
  [(.crcgen, 0x01), (.frmc, 0x02), (.frmcd, 0x03),
   (.chk1 0, 0x04), (.chk1 1, 0x14), (.chk1 2, 0x24), (.chk2, 0x05), (.chk3, 0x06)]

/-- The rows of rule R58's table for the conversions. -/
def opcodesOfConversions : List (Instr × Byte) :=
  [(.tdec 0, 0x07), (.tdec 1, 0x17), (.tdec 2, 0x27), (.hdec 0, 0x08), (.hdec 1, 0x18), (.hdec 2, 0x28),
   (.tenc 0, 0x09), (.tenc 1, 0x19), (.tenc 2, 0x29), (.henc 0, 0x0A), (.henc 1, 0x1A), (.henc 2, 0x2A),
   (.thpk, 0x0B), (.ofsenc, 0x0C), (.ofsdec 0, 0x0D), (.ofsdec 1, 0x1D), (.ofsdec 2, 0x2D)]

/-- The operations and CTRL values of rule R58's table. -/
def opcodeMap : List (Instr × Byte) := opcodesOfFrames ++ opcodesOfConversions

/-- The sources of an operation (rule R121's table); an operation whose SEL names no WORD register reads
none (rule R102). -/
def sourcesOf : Instr → List Reg
  | .crcgen   => [.data]
  | .frmc     => [.cmd]
  | .frmcd    => [.cmd, .data]
  | .chk1 k   => if k = 3 then [] else [.inb 0, .inb 1, .inb 2]
  | .chk2     => [.inb 0, .inb 1, .inb 2, .inb 3, .inb 4, .inb 5]
  | .chk3     => [.inb 0, .inb 1, .inb 2, .inb 3, .inb 4, .inb 5, .inb 6, .inb 7, .inb 8]
  | .tdec k   => if h : k.toNat < 3 then [.word ⟨k.toNat, h⟩] else []
  | .hdec k   => if h : k.toNat < 3 then [.word ⟨k.toNat, h⟩] else []
  | .tenc k   => if k = 3 then [] else [.xt]
  | .henc k   => if k = 3 then [] else [.xh]
  | .thpk     => [.xt, .xh]
  | .ofsenc   => [.xt, .xh]
  | .ofsdec k => if h : k.toNat < 3 then [.word ⟨k.toNat, h⟩] else []

/-- The binary64 values of rules R82 to R85 in their written order of operations. -/
def tempOf (r : Word16) : F64 :=
  fsub (fmul (fdiv (f64OfNat r.toNat) 0x40EFFFE000000000) 0x4065E00000000000) 0x4046800000000000
/-- `decH` of rule R83. -/
def humOf (r : Word16) : F64 :=
  fmul (fdiv (f64OfNat r.toNat) 0x40EFFFE000000000) 0x4059000000000000
/-- `q` of rule R84. -/
def qOfTemp (t : F64) : F64 :=
  fmul (fdiv (fadd t 0x4046800000000000) 0x4065E00000000000) 0x40EFFFE000000000
/-- `q` of rule R85. -/
def qOfHum (h : F64) : F64 := fmul (fdiv h 0x4059000000000000) 0x40EFFFE000000000

/-- The code of rules R84 and R85 for a quotient `q` rounded as `r` says. -/
def codeOf (r : Rounding) (q : F64) : Option Word16 :=
  if isInf q ∨ roundInt r q < 0 ∨ 65535 < roundInt r q then none
  else some (BitVec.ofInt 16 (roundInt r q))

/-- `encT` as rule R84 writes it. -/
def tempCode (r : Rounding) (t : F64) : Option Word16 := if isNaN t then none else codeOf r (qOfTemp t)
/-- `encH` as rule R85 writes it, `ENC_ROUND_H = TRUNC`. -/
def humCode (h : F64) : Option Word16 := if isNaN h then none else codeOf .trunc (qOfHum h)

/-- `offEnc` as rule R88 writes it. -/
def offsetByte (v lsb : F64) : Option Byte :=
  let q := fdiv (fabs v) lsb
  if isNaN v ∨ isInf q ∨ 127 < roundInt .halfAway q then none
  else some (BitVec.ofBool (fge0 v) ++ BitVec.ofInt 7 (roundInt .halfAway q))

/-- `offDec` as rule R89 writes it. -/
def offsetOf (b : Byte) (lsb : F64) : F64 :=
  let y := fmul (f64OfNat (b.toNat % 128)) lsb
  if b.getLsbD 7 then y else fneg y

/-- The host's next access reads an unwritten register, and `rec` is what the fault record then keeps: a
`RegRead` of that register, or a write of a legal CTRL value whose operation has an unwritten source
(rules R23, R75). -/
def ReadsUnwritten (s : State) (rec : UnwrittenRecord) : Prop :=
  (∃ r rest, s.pending = .read (numberOfReg r) :: rest ∧ isWritten s.regs r = false ∧
    rec = ⟨[r], s.regs⟩) ∨
  (∃ v i rest, s.pending = .write 0x00 (.b8 v) :: rest ∧ decode v = .ok i ∧
    unwrittenOf s (sourcesOf i) ≠ [] ∧ rec = ⟨unwrittenOf s (sourcesOf i), { s.regs with ctrl := v }⟩)

/-- The STATUS values rule R27 allows. -/
def statusValues : List Byte := [0x00, 0x01, 0x02, 0x12, 0x22, 0x04, 0x14, 0x06]

/-- Two register files with the same marks and the same value in every written register. -/
def Agree (f g : RegFile) : Prop :=
  ∀ r : Reg, isWritten f r = isWritten g r ∧ (isWritten f r = true → regValue f r = regValue g r)

/-- Two machines that differ at most in the bits unwritten registers hold. -/
def AgreeState (s s' : State) : Prop :=
  Agree s.regs s'.regs ∧ s.encRoundT = s'.encRoundT ∧ s.pending = s'.pending ∧ s.reads = s'.reads ∧
    s.unwrittenFault = s'.unwrittenFault

/-- What holds of every reachable machine: STATUS and OUTLEN hold only their listed values (R27, R32);
the bytes of the last frame are written, and a 5-byte frame carries its own CRC (R32, R63); a written
physical output is finite (R98); a fault record names at least one register, each unwritten in the
registers it keeps (R105). -/
def Inv (s : State) : Prop :=
  s.regs.status ∈ statusValues ∧
  (s.regs.outlen = 0 ∨ s.regs.outlen = 2 ∨ s.regs.outlen = 5) ∧
  (∀ k : Fin 5, k.val < s.regs.outlen.toNat → s.regs.out[k].written = true) ∧
  (s.regs.outlen = 5 → s.regs.out[4].val = crc8 s.regs.out[2].val s.regs.out[3].val) ∧
  (s.regs.yt.written = true → isFinite s.regs.yt.val = true) ∧
  (s.regs.yh.written = true → isFinite s.regs.yh.val = true) ∧
  (∀ r, s.unwrittenFault = some r → r.sources ≠ [] ∧ ∀ x ∈ r.sources, isWritten r.regs x = false)

/-- A 3-byte group as 24 bits in wire order is valid (rule R64). -/
def groupValid (w : BitVec 24) : Prop :=
  crc8 (w.extractLsb' 16 8) (w.extractLsb' 8 8) = w.extractLsb' 0 8

/-- The distance of two naturals. -/
def dist (a b : Nat) : Nat := (a - b) + (b - a)

/-- `p` is the magnitude pattern binary64 rounding to nearest, ties to even, gives the value `n / d`
(in units of 2^-1074): no finite pattern is nearer, in a tie `p` is even, and infinity exactly from the
midpoint above the largest finite value on (rules R8 and R14). -/
def NearestEven (n d p : Nat) : Prop :=
  (p < infMag ∧ n < (2 ^ 54 - 1) * 2 ^ 2044 * d ∧
    ∀ y, y < infMag → dist (magUnits p * d) n ≤ dist (magUnits y * d) n ∧
      (y ≠ p → dist (magUnits p * d) n = dist (magUnits y * d) n → p % 2 = 0)) ∨
  (p = infMag ∧ (2 ^ 54 - 1) * 2 ^ 2044 * d ≤ n)

end Sys2Proof.Claims

open Sys2Proof Sys2Proof.Machine Sys2Proof.Claims

/-! ### Reset and the host port -/

/-- R38: the full list of reset values, each register's mark included. The bits an unwritten register
holds are the model's choice (log entry 1) and are not stated. -/
def Obligations.ResetClearsControlAndMarksTheRestUnwritten : Prop :=
  State.reset.regs.ctrl = 0x00 ∧ State.reset.regs.status = 0x00 ∧ State.reset.regs.outlen = 0x00 ∧
  ∀ r : Reg, isWritten State.reset.regs r = true ↔ (r = .ctrl ∨ r = .status ∨ r = .outlen)

/-- R118: a reset asserted between two accesses puts every register in its reset state and starts no
operation. That the fault record outlives it is R105's "never cleared"; that what the host has read
outlives it is the model's choice (log entry 6). -/
def Obligations.ResetInputRestoresTheResetRegisters : Prop :=
  ∀ (s : State) (rest : List HostAccess), s.pending = .reset :: rest →
    step s = .next { s with regs := State.reset.regs, pending := rest }

/-- R19: the engine never acts on its own. -/
def Obligations.WithoutAHostAccessNothingChanges : Prop :=
  ∀ s : State, s.pending = [] → step s = .next s

/-- R26, R75, R120: a write of a CTRL value that decodes to `i` is `exec i` on the state with the value
stored, and so is the step after `withFetchWord`. -/
def Obligations.StepRunsTheDecodedOperation : Prop :=
  (∀ (s : State) (v : Byte) (rest : List HostAccess) (i : Instr),
    s.pending = .write 0x00 (.b8 v) :: rest → decode v = .ok i →
    step s = exec i (stored s v rest)) ∧
  (∀ (s : State) (w : Nat) (i : Instr), decodeTableWord 8 w = some i →
    step (s.withFetchWord 8 w) = exec i (stored s (BitVec.ofNat 8 w) s.pending))

/-- R21: the numbers of the registers, and every other number unassigned. -/
def Obligations.RegisterNumbersFollowTheMap : Prop :=
  (∀ (n : Byte) (r : Reg), regOfNumber n = some r ↔ n = numberOfReg r) ∧
  (numberOfReg .ctrl = 0x00 ∧ numberOfReg .status = 0x01 ∧ numberOfReg .cmd = 0x02 ∧
    numberOfReg .data = 0x03 ∧ numberOfReg .crc = 0x04 ∧ numberOfReg .outlen = 0x05 ∧
    (∀ k, (numberOfReg (.out k)).toNat = 0x08 + k.val) ∧ (∀ k, (numberOfReg (.inb k)).toNat = 0x10 + k.val) ∧
    (∀ k, (numberOfReg (.word k)).toNat = 0x20 + k.val) ∧ numberOfReg .xt = 0x30 ∧
    numberOfReg .xh = 0x31 ∧ numberOfReg .yt = 0x32 ∧ numberOfReg .yh = 0x33) ∧
  (∀ n : Byte, regOfNumber n = none ↔
    (n.toNat ∈ [0x06, 0x07] ∨ (0x0D ≤ n.toNat ∧ n.toNat ≤ 0x0F) ∨ (0x19 ≤ n.toNat ∧ n.toNat ≤ 0x1F) ∨
      (0x23 ≤ n.toNat ∧ n.toNat ≤ 0x2F) ∨ 0x34 ≤ n.toNat))

/-- R22, R49: a read of an assigned number returns the register's value and changes no register; a read
of an unassigned number returns 0 of width 8. A read of an unwritten register is recorded (R105). -/
def Obligations.HostReadReturnsTheRegisterAndChangesNone : Prop :=
  (∀ (s : State) (r : Reg) (rest : List HostAccess), s.pending = .read (numberOfReg r) :: rest →
    step s = .next { s with pending := rest, reads := regValue s.regs r :: s.reads,
                            unwrittenFault := record s [r] }) ∧
  (∀ (s : State) (n : Byte) (rest : List HostAccess), s.pending = .read n :: rest →
    (∀ r, n ≠ numberOfReg r) →
    step s = .next { s with pending := rest, reads := .b8 0 :: s.reads })

/-- R22: a host write of a read-only register or of an unassigned number has no effect; a host write of
a read/write register stores the value, marks it written, changes no other register, and a read then
returns exactly that value; a read of a written register returns what the host or the engine wrote
last, the register's present value. (CTRL's write also starts an operation: R26.) -/
def Obligations.HostWriteObeysTheAccessRights : Prop :=
  (∀ (s : State) (r : Reg) (v : RegValue) (rest : List HostAccess),
    s.pending = .write (numberOfReg r) v :: rest → v.width = (regValue s.regs r).width →
    (r = .status ∨ r = .crc ∨ r = .outlen ∨ (∃ k, r = .out k) ∨ r = .yt ∨ r = .yh →
      step s = .next { s with pending := rest }) ∧
    (r = .cmd ∨ r = .data ∨ (∃ k, r = .inb k) ∨ (∃ k, r = .word k) ∨ r = .xt ∨ r = .xh →
      ∃ f : RegFile, step s = .next { s with pending := rest, regs := f } ∧
        regValue f r = v ∧ isWritten f r = true ∧
        ∀ r', r' ≠ r → regValue f r' = regValue s.regs r' ∧ isWritten f r' = isWritten s.regs r')) ∧
  (∀ (s : State) (n : Byte) (v : RegValue) (rest : List HostAccess), s.pending = .write n v :: rest →
    (∀ r, n ≠ numberOfReg r) → step s = .next { s with pending := rest }) ∧
  (∀ (s : State) (n : Byte) (rest : List HostAccess), s.pending = .read n :: rest →
    (∀ r, n ≠ numberOfReg r) → step s = .next { s with pending := rest, reads := .b8 0 :: s.reads }) ∧
  (∀ (s : State) (r : Reg) (v : RegValue) (rest : List HostAccess),
    s.pending = .write (numberOfReg r) v :: .read (numberOfReg r) :: rest →
    v.width = (regValue s.regs r).width →
    (r = .cmd ∨ r = .data ∨ (∃ k, r = .inb k) ∨ (∃ k, r = .word k) ∨ r = .xt ∨ r = .xh) →
    ∃ f : RegFile, Sys2Proof.core.run 2 s =
      .next { s with pending := rest, regs := f, reads := v :: s.reads }) ∧
  (∀ (s : State) (v : Byte) (rest : List HostAccess),
    s.pending = .write (numberOfReg .ctrl) (.b8 v) :: .read (numberOfReg .ctrl) :: rest →
    ∃ t : State, Sys2Proof.core.run 2 s = .next t ∧ t.reads = .b8 v :: s.reads ∧ t.regs.ctrl = v) ∧
  (∀ (s : State) (r : Reg) (rest : List HostAccess), s.pending = .read (numberOfReg r) :: rest →
    isWritten s.regs r = true →
    ∃ t : State, step s = .next t ∧ t.reads = regValue s.regs r :: s.reads)

/-- R20: a write whose value has another width than its register is refused, at every register. -/
def Obligations.HostWriteOfAnotherWidthIsRefused : Prop :=
  ∀ (s : State) (r : Reg) (v : RegValue) (rest : List HostAccess),
    s.pending = .write (numberOfReg r) v :: rest → v.width ≠ (regValue s.regs r).width →
    step s = .refused (.widthMismatch r v)

/-! ### Encoding -/

/-- R58, R59: a CTRL value decodes to an operation exactly as the opcode map lists; of the 256 values
the 25 listed are legal, and the reason a value is rejected is the first test of R59 that applies. -/
def Obligations.DecodeIsTheOpcodeMap : Prop :=
  (∀ (v : Byte) (i : Instr), decode v = .ok i ↔ (i, v) ∈ opcodeMap) ∧
  opcodeMap.length = 25 ∧ (opcodeMap.map Prod.snd).Nodup ∧
  (∀ v : Byte, v.extractLsb' 6 2 ≠ 0 → decode v = .error (.rsvNonzero (v.extractLsb' 6 2))) ∧
  (∀ v : Byte, v.extractLsb' 6 2 = 0 → v.extractLsb' 0 4 ∈ [0x0#4, 0xE#4, 0xF#4] →
    decode v = .error (.opReserved (v.extractLsb' 0 4))) ∧
  (∀ v : Byte, v.extractLsb' 6 2 = 0 → v.extractLsb' 0 4 ∈ [0x4#4, 0x7#4, 0x8#4, 0x9#4, 0xA#4, 0xD#4] →
    v.extractLsb' 4 2 = 3 → decode v = .error (.selIllegal (v.extractLsb' 0 4) 3)) ∧
  (∀ v : Byte, v.extractLsb' 6 2 = 0 → v.extractLsb' 0 4 ∈ [0x1#4, 0x2#4, 0x3#4, 0x5#4, 0x6#4, 0xB#4, 0xC#4] →
    v.extractLsb' 4 2 ≠ 0 → decode v = .error (.selIllegal (v.extractLsb' 0 4) (v.extractLsb' 4 2)))

/-- R56 to R59: decoding and encoding agree, both ways, over all operations and all CTRL values. -/
def Obligations.DecodeAndEncodeAgree : Prop :=
  ∀ (v : Byte) (i : Instr), decode v = .ok i ↔ (i.wf = true ∧ encode i = v)

/-- R58: a few CTRL values written out bit by bit, one of each family and operand form. -/
def Obligations.SpelledWordsDecode : Prop :=
  decode 0b00000001 = .ok .crcgen ∧ decode 0b00000011 = .ok .frmcd ∧ decode 0b00100100 = .ok (.chk1 2) ∧
  decode 0b00000110 = .ok .chk3 ∧ decode 0b00010111 = .ok (.tdec 1) ∧ decode 0b00101010 = .ok (.henc 2) ∧
  decode 0b00001011 = .ok .thpk ∧ decode 0b00011101 = .ok (.ofsdec 1)

/-- R102: a CTRL value with RSV nonzero, a reserved OP or a SEL its operation does not take is stored,
sets STATUS to 0x06, and changes and reads nothing else, whatever is unwritten. -/
def Obligations.IllegalCtrlValueRaisesIllegalOp : Prop :=
  ∀ (s : State) (v : Byte) (rest : List HostAccess), s.pending = .write 0x00 (.b8 v) :: rest →
    (v.extractLsb' 6 2 ≠ 0 ∨ v.extractLsb' 0 4 ∈ [0x0#4, 0xE#4, 0xF#4] ∨
      (v.extractLsb' 0 4 ∈ [0x4#4, 0x7#4, 0x8#4, 0x9#4, 0xA#4, 0xD#4] ∧ v.extractLsb' 4 2 = 3) ∨
      (v.extractLsb' 0 4 ∈ [0x1#4, 0x2#4, 0x3#4, 0x5#4, 0x6#4, 0xB#4, 0xC#4] ∧ v.extractLsb' 4 2 ≠ 0)) →
    step s = .next { s with pending := rest, regs := { s.regs with ctrl := v, status := 0x06 } }

/-- R57, R102: an operation term whose SEL is 3 raises `IllegalOp`, whatever the state. -/
def Obligations.SelThreeRaisesIllegalOp : Prop :=
  ∀ (s : State), ∀ i ∈ [Instr.chk1 3, .tdec 3, .hdec 3, .tenc 3, .henc 3, .ofsdec 3],
    exec i s = .next { s with regs := { s.regs with status := 0x06 } }

/-! ### The CRC function -/

/-- R71: the reference algorithm, byte by byte, eight shifts each. -/
def Obligations.CrcEightIsTheReferenceAlgorithm : Prop :=
  ∀ b1 b0 : Byte, crc8 b1 b0 =
    [b1, b0].foldl (fun (acc byte : Byte) =>
      (List.range 8).foldl (fun (a : Byte) _ => if a.getLsbD 7 = true then ((a <<< 1) &&& 0xFF) ^^^ 0x31 else (a <<< 1) &&& 0xFF)
        (acc ^^^ byte)) 0xFF

/-- R72: `crc8` is affine over GF(2). -/
def Obligations.CrcEightIsAffine : Prop :=
  crc8 0x00 0x00 = 0x81 ∧
  ∀ a1 a0 b1 b0 : Byte, crc8 (a1 ^^^ b1) (a0 ^^^ b0) = crc8 a1 a0 ^^^ crc8 b1 b0 ^^^ crc8 0x00 0x00

/-- R72: for a fixed high byte the map from low byte to CRC is a bijection; so is the map from high byte
for a fixed low byte. -/
def Obligations.CrcEightIsABijectionInEachByte : Prop :=
  (∀ hi c : Byte, ∃ lo, crc8 hi lo = c ∧ ∀ lo', crc8 hi lo' = c → lo' = lo) ∧
  (∀ lo c : Byte, ∃ hi, crc8 hi lo = c ∧ ∀ hi', crc8 hi' lo = c → hi' = hi)

/-- R72: within a group, no error of one, two or three flipped bits and no burst of length 8 or less
turns a valid group into another valid group. -/
def Obligations.SmallErrorsNeverPassTheGroupCheck : Prop :=
  ∀ g e : BitVec 24, groupValid g → e ≠ 0 →
    ((List.range 24).countP (fun i => e.getLsbD i) ≤ 3 ∨
      ∃ (b : Byte) (j : Fin 17), e = (b.zeroExtend 24) <<< j.val) →
    ¬ groupValid (g ^^^ e)

/-! ### CRC and frame operations -/

/-- R76: CRCGEN, and R75's frame. Going on where DATA is unwritten, and what is then recorded, is the
model's choice (log entries 2 and 7). -/
def Obligations.CrcgenFollowsItsRule : Prop :=
  PerformsAs .crcgen 0x01 [.data] (fun s => { s.regs with
    crc := ⟨crc8 (s.regs.data.val.extractLsb' 8 8) (s.regs.data.val.extractLsb' 0 8), true⟩
    status := 0x01 }) ∧
  IllegalBut 0x1 [0x01] ∧
  crc8 0x00 0x00 = 0x81 ∧ crc8 0xFF 0x00 = 0x00 ∧ crc8 0xFF 0xFF = 0xAC ∧ crc8 0xBE 0xEF = 0x92

/-- R77: FRMC, and R75's frame. OUT2 to OUT4 keep their values and marks. Going on where CMD is
unwritten, and what is then recorded, is the model's choice (log entries 2 and 7). -/
def Obligations.FrmcFollowsItsRule : Prop :=
  PerformsAs .frmc 0x02 [.cmd] (fun s => { s.regs with
    out := #v[⟨s.regs.cmd.val.extractLsb' 8 8, true⟩, ⟨s.regs.cmd.val.extractLsb' 0 8, true⟩,
      s.regs.out[2], s.regs.out[3], s.regs.out[4]]
    outlen := 2
    status := 0x01 }) ∧
  IllegalBut 0x2 [0x02]

/-- R78: FRMCD, and R75's frame. The CRC covers the data bytes only. Going on where CMD or DATA is
unwritten, and what is then recorded, is the model's choice (log entries 2 and 7). -/
def Obligations.FrmcdFollowsItsRule : Prop :=
  PerformsAs .frmcd 0x03 [.cmd, .data] (fun s =>
    let c := crc8 (s.regs.data.val.extractLsb' 8 8) (s.regs.data.val.extractLsb' 0 8)
    { s.regs with
      out := #v[⟨s.regs.cmd.val.extractLsb' 8 8, true⟩, ⟨s.regs.cmd.val.extractLsb' 0 8, true⟩,
        ⟨s.regs.data.val.extractLsb' 8 8, true⟩, ⟨s.regs.data.val.extractLsb' 0 8, true⟩, ⟨c, true⟩]
      crc := ⟨c, true⟩
      outlen := 5
      status := 0x01 }) ∧
  IllegalBut 0x3 [0x03] ∧ crc8 0xFF 0x00 = 0x00 ∧ crc8 0x98 0xDB = 0x15

/-- R79: CHK1 k, for k = 0, 1, 2, and R75's frame. The source is group 0 whatever k is. Going on where
a checked byte is unwritten, and what is then recorded, is the model's choice (log entries 2 and 7). -/
def Obligations.ChkOneFollowsItsRule : Prop :=
  (∀ k : Fin 3, PerformsAs (.chk1 (BitVec.ofNat 2 k.val)) (BitVec.ofNat 8 (0x04 + 16 * k.val))
    [.inb 0, .inb 1, .inb 2] (fun s =>
      if crc8 (inByte s.regs 0) (inByte s.regs 1) = inByte s.regs 2 then
        { s.regs with word := s.regs.word.set k ⟨word16 (inByte s.regs 0) (inByte s.regs 1), true⟩, status := 0x01 }
      else { s.regs with status := 0x02 })) ∧
  IllegalBut 0x4 [0x04, 0x14, 0x24] ∧
  crc8 0x00 0x00 ≠ 0x00 ∧ crc8 0xFF 0xFF ≠ 0xFF ∧ crc8 0xFF 0x00 = 0x00 ∧ crc8 0x30 0x00 = 0x33

/-- R80: CHK2, and R75's frame. Both groups are checked; group 0 is reported first; no partial result.
Going on where a checked byte is unwritten, and what is then recorded, is the model's choice (log
entries 2 and 7). -/
def Obligations.ChkTwoFollowsItsRule : Prop :=
  PerformsAs .chk2 0x05 [.inb 0, .inb 1, .inb 2, .inb 3, .inb 4, .inb 5] (fun s =>
    if crc8 (inByte s.regs 0) (inByte s.regs 1) ≠ inByte s.regs 2 then { s.regs with status := 0x02 }
    else if crc8 (inByte s.regs 3) (inByte s.regs 4) ≠ inByte s.regs 5 then { s.regs with status := 0x12 }
    else { s.regs with
      word := #v[⟨word16 (inByte s.regs 0) (inByte s.regs 1), true⟩,
        ⟨word16 (inByte s.regs 3) (inByte s.regs 4), true⟩, s.regs.word[2]]
      status := 0x01 }) ∧
  IllegalBut 0x5 [0x05] ∧ crc8 0x66 0x66 = 0x93 ∧ crc8 0x99 0x99 = 0xBE

/-- R81: CHK3, and R75's frame. Going on where a checked byte is unwritten, and what is then recorded, is
the model's choice (log entries 2 and 7). -/
def Obligations.ChkThreeFollowsItsRule : Prop :=
  PerformsAs .chk3 0x06
    [.inb 0, .inb 1, .inb 2, .inb 3, .inb 4, .inb 5, .inb 6, .inb 7, .inb 8] (fun s =>
    if crc8 (inByte s.regs 0) (inByte s.regs 1) ≠ inByte s.regs 2 then { s.regs with status := 0x02 }
    else if crc8 (inByte s.regs 3) (inByte s.regs 4) ≠ inByte s.regs 5 then { s.regs with status := 0x12 }
    else if crc8 (inByte s.regs 6) (inByte s.regs 7) ≠ inByte s.regs 8 then { s.regs with status := 0x22 }
    else { s.regs with
      word := #v[⟨word16 (inByte s.regs 0) (inByte s.regs 1), true⟩,
        ⟨word16 (inByte s.regs 3) (inByte s.regs 4), true⟩,
        ⟨word16 (inByte s.regs 6) (inByte s.regs 7), true⟩]
      status := 0x01 }) ∧
  IllegalBut 0x6 [0x06] ∧ crc8 0x12 0x34 = 0x37 ∧ crc8 0x56 0x78 = 0x7D ∧ crc8 0x9A 0xBC = 0xE0

/-- R74: a check of `n` groups with some group bad writes no WORD register and reports the lowest bad
group in GRP. That it does so too where a checked byte is unwritten, and R75 has a model fault, is the
model's choice (log entry 2). -/
def Obligations.AnyBadGroupInvalidatesTheWholeCheck : Prop :=
  ∀ (s : State), ∀ p ∈ [(Instr.chk1 0, 1), (.chk1 1, 1), (.chk1 2, 1), (.chk2, 2), (.chk3, 3)],
    ∀ g : Fin 3, g.val < p.2 → groupOk s.regs g = false →
      (∀ h : Fin 3, h.val < g.val → groupOk s.regs h = true) →
      ∃ t, exec p.1 s = .next t ∧
        t.regs = { s.regs with status := BitVec.ofNat 8 (16 * g.val + 2) }

/-- R63, R64: the data bytes and CRC of a frame FRMCD built, received back as group 0, pass CHK1, and
WORD0 is the DATA that was framed (derived: N14's "FRMCD always produces a correct CRC"). It holds with
unwritten sources too, where going on is the model's choice (log entry 2). -/
def Obligations.FramedDataPassesTheGroupCheck : Prop :=
  ∀ s t u : State, exec .frmcd s = .next t →
    u.regs.inb[0].val = t.regs.out[2].val → u.regs.inb[1].val = t.regs.out[3].val →
    u.regs.inb[2].val = t.regs.out[4].val →
    ∃ u', exec (.chk1 0) u = .next u' ∧ u'.regs.status = 0x01 ∧ u'.regs.word[0].val = s.regs.data.val

/-! ### Conversion operations -/

/-- R91: TDEC k, and R75's frame. Going on where WORD[k] is unwritten, and what is then recorded, is the
model's choice (log entries 2 and 7). -/
def Obligations.TdecFollowsItsRule : Prop :=
  (∀ k : Fin 3, PerformsAs (.tdec (BitVec.ofNat 2 k.val)) (BitVec.ofNat 8 (0x07 + 16 * k.val)) [.word k]
    (fun s => { s.regs with yt := ⟨tempOf s.regs.word[k].val, true⟩, status := 0x01 })) ∧
  IllegalBut 0x7 [0x07, 0x17, 0x27] ∧
  tempOf 0x0000 = 0xC046800000000000 ∧ tempOf 0xFFFF = 0x4060400000000000 ∧
  tempOf 0x6666 = 0x4039000000000000

/-- R92: HDEC k, and R75's frame. Going on where WORD[k] is unwritten, and what is then recorded, is the
model's choice (log entries 2 and 7). -/
def Obligations.HdecFollowsItsRule : Prop :=
  (∀ k : Fin 3, PerformsAs (.hdec (BitVec.ofNat 2 k.val)) (BitVec.ofNat 8 (0x08 + 16 * k.val)) [.word k]
    (fun s => { s.regs with yh := ⟨humOf s.regs.word[k].val, true⟩, status := 0x01 })) ∧
  IllegalBut 0x8 [0x08, 0x18, 0x28] ∧
  humOf 0x0000 = 0x0000000000000000 ∧ humOf 0xFFFF = 0x4059000000000000 ∧
  humOf 0x0001 = 0x3F59001900190019 ∧ humOf 0x9999 = 0x404E000000000000

/-- R93: TENC k, under the parameter `ENC_ROUND_T` (a field of State, log entry 3), and R75's frame.
Going on where XT is unwritten, and what is then recorded, is the model's choice (log entries 2 and 7). -/
def Obligations.TencFollowsItsRule : Prop :=
  (∀ k : Fin 3, PerformsAs (.tenc (BitVec.ofNat 2 k.val)) (BitVec.ofNat 8 (0x09 + 16 * k.val)) [.xt]
    (fun s => match tempCode s.encRoundT s.regs.xt.val with
      | some w => { s.regs with word := s.regs.word.set k ⟨w, true⟩, status := 0x01 }
      | none => { s.regs with status := 0x04 })) ∧
  IllegalBut 0x9 [0x09, 0x19, 0x29] ∧
  (∀ r : Rounding, tempCode r 0x7FF8000000000000 = none ∧ tempCode r 0x7FF0000000000000 = none ∧
    tempCode r 0xFFF0000000000000 = none ∧ tempCode r 0xC047000000000000 = none ∧
    tempCode r 0x4060600000000000 = none ∧ tempCode r 0xC046800346DC5D64 = some 0 ∧
    tempCode r 0x406040083126E979 = some 65535 ∧ tempCode r 0x4039000000000000 = some 0x6666) ∧
  tempCode .trunc 0x0000000000000000 = some 16851 ∧ tempCode .halfAway 0x0000000000000000 = some 16852

/-- R94: HENC k, truncating (the spec's decision D4, log entry 10); it reports lane 1; and R75's frame.
Going on where XH is unwritten, and what is then recorded, is the model's choice (log entries 2 and 7). -/
def Obligations.HencFollowsItsRule : Prop :=
  (∀ k : Fin 3, PerformsAs (.henc (BitVec.ofNat 2 k.val)) (BitVec.ofNat 8 (0x0A + 16 * k.val)) [.xh]
    (fun s => match humCode s.regs.xh.val with
      | some w => { s.regs with word := s.regs.word.set k ⟨w, true⟩, status := 0x01 }
      | none => { s.regs with status := 0x14 })) ∧
  IllegalBut 0xA [0x0A, 0x1A, 0x2A] ∧
  humCode 0x7FF8000000000000 = none ∧ humCode 0x7FF0000000000000 = none ∧ humCode 0xFFF0000000000000 = none ∧
  humCode 0xBF50624DD2F1A9FC = some 0 ∧ humCode 0x40590010624DD2F2 = some 65535 ∧
  humCode 0x4059400000000000 = none ∧ humCode 0x4049000000000000 = some 32767 ∧
  humCode 0x8000000000000000 = some 0 ∧ humCode 0x404E000000000000 = some 0x9999

/-- R95: THPK, and R75's frame. Lane 0 is reported before lane 1. `ENC_ROUND_H` is log entry 10. Going on
where XT or XH is unwritten, and what is then recorded, is the model's choice (log entries 2 and 7). -/
def Obligations.ThpkFollowsItsRule : Prop :=
  PerformsAs .thpk 0x0B [.xt, .xh] (fun s =>
    match tempCode s.encRoundT s.regs.xt.val, humCode s.regs.xh.val with
    | none, _ => { s.regs with status := 0x04 }
    | some _, none => { s.regs with status := 0x14 }
    | some t, some h => { s.regs with data := ⟨h.extractLsb' 9 7 ++ t.extractLsb' 7 9, true⟩, status := 0x01 }) ∧
  IllegalBut 0xB [0x0B] ∧
  (∀ r : Rounding, tempCode r 0xC046800000000000 = some 0x0000 ∧ tempCode r 0x4060400000000000 = some 0xFFFF ∧
    tempCode r 0x403E000000000000 = some 0x6DB6) ∧
  humCode 0x0000000000000000 = some 0x0000 ∧ humCode 0x4059000000000000 = some 0xFFFF ∧
  humCode 0x404E000000000000 = some 0x9999

/-- R96: OFSENC, and R75's frame. Ties away from zero and -0.0 as not negative are the spec's decisions D7
and D23 (log entry 10). Going on where XT or XH is unwritten, and what is then recorded, is the model's
choice (log entries 2 and 7). -/
def Obligations.OfsencFollowsItsRule : Prop :=
  PerformsAs .ofsenc 0x0C [.xt, .xh] (fun s =>
    match offsetByte s.regs.xt.val 0x3FC5E00000000000, offsetByte s.regs.xh.val 0x3FC9000000000000 with
    | none, _ => { s.regs with status := 0x04 }
    | some _, none => { s.regs with status := 0x14 }
    | some lo, some hi => { s.regs with data := ⟨word16 hi lo, true⟩, status := 0x01 }) ∧
  IllegalBut 0xC [0x0C] ∧
  offsetByte 0x0000000000000000 0x3FC5E00000000000 = some 0x80 ∧
  offsetByte 0x8000000000000000 0x3FC5E00000000000 = some 0x80 ∧
  offsetByte 0x0000000000000000 0x3FC9000000000000 = some 0x80 ∧
  offsetByte 0x8000000000000000 0x3FC9000000000000 = some 0x80 ∧
  offsetByte 0x4035CA3D70A3D70A 0x3FC5E00000000000 = none ∧
  offsetByte 0x4038E70000000000 0x3FC9000000000000 = none ∧
  offsetByte 0x3FB5E00000000000 0x3FC5E00000000000 = some 0x81 ∧
  offsetByte 0xBFF0000000000000 0x3FC5E00000000000 = some 0x06 ∧
  offsetByte 0x4014000000000000 0x3FC9000000000000 = some 0x9A

/-- R97: OFSDEC k, and R75's frame. Going on where WORD[k] is unwritten, and what is then recorded, is the
model's choice (log entries 2 and 7). -/
def Obligations.OfsdecFollowsItsRule : Prop :=
  (∀ k : Fin 3, PerformsAs (.ofsdec (BitVec.ofNat 2 k.val)) (BitVec.ofNat 8 (0x0D + 16 * k.val)) [.word k]
    (fun s => { s.regs with
      yh := ⟨offsetOf (s.regs.word[k].val.extractLsb' 8 8) 0x3FC9000000000000, true⟩
      yt := ⟨offsetOf (s.regs.word[k].val.extractLsb' 0 8) 0x3FC5E00000000000, true⟩
      status := 0x01 })) ∧
  IllegalBut 0xD [0x0D, 0x1D, 0x2D] ∧
  offsetOf 0x00 0x3FC5E00000000000 = 0x8000000000000000 ∧ offsetOf 0x00 0x3FC9000000000000 = 0x8000000000000000 ∧
  offsetOf 0x80 0x3FC5E00000000000 = 0x0000000000000000 ∧ offsetOf 0x80 0x3FC9000000000000 = 0x0000000000000000 ∧
  offsetOf 0xFF 0x3FC5E00000000000 = 0x4035B44000000000 ∧ offsetOf 0xFF 0x3FC9000000000000 = 0x4038CE0000000000 ∧
  offsetOf 0x7F 0x3FC5E00000000000 = 0xC035B44000000000 ∧ offsetOf 0x7F 0x3FC9000000000000 = 0xC038CE0000000000 ∧
  offsetOf 0x06 0x3FC5E00000000000 = 0xBFF0680000000000 ∧ offsetOf 0x9A 0x3FC9000000000000 = 0x4014500000000000

/-! ### The arithmetic -/

/-- R8, R14: each of the four operations, on finite values, gives the exact result rounded once to the
nearest binary64 value, ties to even, with IEEE 754's sign; `f64(n)` is exact for every 16-bit `n`. -/
def Obligations.ArithmeticRoundsToNearestEven : Prop :=
  (∀ a b : F64, isFinite a = true → isFinite b = true →
    (NearestEven (f64Units a + f64Units b).natAbs 1 (f64MagBits (fadd a b)) ∧
      f64Sign (fadd a b) = (if f64Units a + f64Units b = 0 then f64Sign a && f64Sign b
        else decide (f64Units a + f64Units b < 0))) ∧
    (NearestEven (f64Units a - f64Units b).natAbs 1 (f64MagBits (fsub a b)) ∧
      f64Sign (fsub a b) = (if f64Units a - f64Units b = 0 then f64Sign a && !f64Sign b
        else decide (f64Units a - f64Units b < 0))) ∧
    (NearestEven (f64Mag a * f64Mag b) (2 ^ 1074) (f64MagBits (fmul a b)) ∧
      f64Sign (fmul a b) = (f64Sign a != f64Sign b)) ∧
    (f64Mag b ≠ 0 → NearestEven (f64Mag a * 2 ^ 1074) (f64Mag b) (f64MagBits (fdiv a b)) ∧
      f64Sign (fdiv a b) = (f64Sign a != f64Sign b))) ∧
  (∀ n : Nat, n ≤ 65535 → isFinite (f64OfNat n) = true ∧ f64Units (f64OfNat n) = (n : Int) * 2 ^ 1074)

/-- R14: NaN and infinity through the four operations as IEEE 754 has them: NaN where an operand is NaN
or the operation is invalid, otherwise an infinity; a finite value over infinity is a zero. The sign of a
product and of a quotient, zeros and infinities included, is plus exactly where the operands' signs are
equal. Which NaN pattern results is the model's choice (log entry 9) and is not stated. -/
def Obligations.ArithmeticOnSpecialValues : Prop :=
  (∀ a b : F64, isNaN a = true ∨ isNaN b = true →
    isNaN (fadd a b) = true ∧ isNaN (fsub a b) = true ∧ isNaN (fmul a b) = true ∧ isNaN (fdiv a b) = true) ∧
  (∀ a b : F64, isInf a = true → isFinite b = true →
    fadd a b = a ∧ fadd b a = a ∧ fsub a b = a ∧ fsub b a = fneg a ∧
    (f64Mag b ≠ 0 → isInf (fmul a b) = true ∧ f64Sign (fmul a b) = (f64Sign a != f64Sign b) ∧
      isInf (fmul b a) = true ∧ f64Sign (fmul b a) = (f64Sign b != f64Sign a)) ∧
    (f64Mag b = 0 → isNaN (fmul a b) = true ∧ isNaN (fmul b a) = true) ∧
    isInf (fdiv a b) = true ∧ f64Sign (fdiv a b) = (f64Sign a != f64Sign b) ∧
    isFinite (fdiv b a) = true ∧ f64Mag (fdiv b a) = 0 ∧ f64Sign (fdiv b a) = (f64Sign b != f64Sign a)) ∧
  (∀ a b : F64, isInf a = true → isInf b = true →
    (f64Sign a = f64Sign b → fadd a b = a ∧ isNaN (fsub a b) = true) ∧
    (f64Sign a ≠ f64Sign b → isNaN (fadd a b) = true ∧ fsub a b = a) ∧
    isInf (fmul a b) = true ∧ f64Sign (fmul a b) = (f64Sign a != f64Sign b) ∧ isNaN (fdiv a b) = true) ∧
  (∀ a b : F64, isFinite a = true → isFinite b = true → f64Mag b = 0 →
    (f64Mag a = 0 → isNaN (fdiv a b) = true) ∧
    (f64Mag a ≠ 0 → isInf (fdiv a b) = true ∧ f64Sign (fdiv a b) = (f64Sign a != f64Sign b))) ∧
  (∀ a : F64, fge0 a = true ↔ (isNaN a = false ∧ (f64Sign a = false ∨ a = 0x8000000000000000)))

/-- R15: `TRUNC` and `HALF_AWAY` on the exact value of a finite `q`: the truncation is the integer part,
the other the nearest integer with ties away from zero, each with the sign of `q`. -/
def Obligations.IntegerRoundingsFollowTheirRules : Prop :=
  ∀ q : F64, isFinite q = true →
    ((roundInt .trunc q).natAbs * 2 ^ 1074 ≤ f64Mag q ∧ f64Mag q < ((roundInt .trunc q).natAbs + 1) * 2 ^ 1074) ∧
    (2 * (roundInt .halfAway q).natAbs * 2 ^ 1074 ≤ 2 * f64Mag q + 2 ^ 1074 ∧
      2 * f64Mag q + 2 ^ 1074 < 2 * ((roundInt .halfAway q).natAbs + 1) * 2 ^ 1074) ∧
    (∀ r, (f64Sign q = true → roundInt r q ≤ 0) ∧ (f64Sign q = false → 0 ≤ roundInt r q))

/-- R86: `decT` and `decH` are strictly increasing in the raw code, and every result lies between the
exact end points -45.0 and 130.0, 0.0 and 100.0. -/
def Obligations.DecodeMapsAreStrictlyIncreasing : Prop :=
  (∀ r r' : Word16, r.toNat < r'.toNat →
    f64Units (decT r) < f64Units (decT r') ∧ f64Units (decH r) < f64Units (decH r')) ∧
  (∀ r : Word16, isFinite (decT r) = true ∧ isFinite (decH r) = true ∧
    -45 * 2 ^ 1074 ≤ f64Units (decT r) ∧ f64Units (decT r) ≤ 130 * 2 ^ 1074 ∧
    0 ≤ f64Units (decH r) ∧ f64Units (decH r) ≤ 100 * 2 ^ 1074)

/-- R86: encoding a decoded raw code gives the code back under HALF_AWAY, and that code or the one below
it under TRUNC. -/
def Obligations.EncodingADecodedCodeReturnsIt : Prop :=
  ∀ r : Word16,
    encT .halfAway (decT r) = some r ∧
    (encT .trunc (decT r) = some r ∨ (r ≠ 0 ∧ encT .trunc (decT r) = some (r - 1))) ∧
    (encH (decH r) = some r ∨ (r ≠ 0 ∧ encH (decH r) = some (r - 1)))

/-- R86: the range `encT` and `encH` accept: `q` in (-1, 65536) under TRUNC, in (-0.5, 65535.5) under
HALF_AWAY; NaN and infinite codes fail. -/
def Obligations.EncodersAcceptExactlyTheirRange : Prop :=
  (∀ t : F64, isNaN t = false → isFinite (qOfTemp t) = true →
    ((encT .trunc t).isSome = true ↔
      (-(2 ^ 1074) < f64Units (qOfTemp t) ∧ f64Units (qOfTemp t) < 65536 * 2 ^ 1074)) ∧
    ((encT .halfAway t).isSome = true ↔
      (-(2 ^ 1074) < 2 * f64Units (qOfTemp t) ∧ 2 * f64Units (qOfTemp t) < 131071 * 2 ^ 1074))) ∧
  (∀ t : F64, isNaN t = true ∨ isInf (qOfTemp t) = true → ∀ r, encT r t = none) ∧
  (∀ h : F64, isNaN h = false → isFinite (qOfHum h) = true →
    ((encH h).isSome = true ↔ (-(2 ^ 1074) < f64Units (qOfHum h) ∧ f64Units (qOfHum h) < 65536 * 2 ^ 1074))) ∧
  (∀ h : F64, isNaN h = true ∨ isInf (qOfHum h) = true → encH h = none)

/-- R89, R87: a decoded offset is exactly its signed magnitude times the LSB, and encoding it gives the
byte back, but for 0x00: it decodes to -0.0, which encodes with the sign bit set. -/
def Obligations.OffsetBytesDecodeExactlyAndEncodeBack : Prop :=
  ∀ lsb ∈ [lsbT, lsbH], ∀ b : Byte,
    f64Units (offDec b lsb) =
      (if b.getLsbD 7 then 1 else -1) * ((b.toNat % 128 : Nat) : Int) * f64Units lsb ∧
    offEnc (offDec b lsb) lsb = some (if b = 0x00 then 0x80 else b)

/-- R90: `offEnc` accepts exactly the finite values below 127.5 LSB in magnitude, and decoding what it
gives is within half an LSB of the value. -/
def Obligations.OffsetRoundTripIsWithinHalfAnLsb : Prop :=
  ∀ lsb ∈ [lsbT, lsbH], ∀ v : F64,
    ((offEnc v lsb).isSome = true ↔ (isFinite v = true ∧ 2 * f64Mag v < 255 * f64Mag lsb)) ∧
    (∀ b, offEnc v lsb = some b → 2 * (f64Units (offDec b lsb) - f64Units v).natAbs ≤ f64Mag lsb)

/-- R65: the threshold word as a number: the top 7 bits of the humidity code above the top 9 bits of the
temperature code. -/
def Obligations.ThresholdWordConcatenatesTheTopBits : Prop :=
  ∀ t h : Word16, (thresholdWord t h).toNat = (h.toNat / 2 ^ 9) * 2 ^ 9 + t.toNat / 2 ^ 7 ∧
    (thresholdWord t h).extractLsb' 9 7 = h.extractLsb' 9 7 ∧
    (thresholdWord t h).extractLsb' 0 9 = t.extractLsb' 7 9

/-! ### The whole machine -/

/-- R21: which registers an operation can write; R26, R33: the engine never writes CTRL and IN. -/
def Obligations.OperationsWriteOnlyTheirListedRegisters : Prop :=
  ∀ (i : Instr) (s t : State), exec i s = .next t →
    (t.regs.ctrl = s.regs.ctrl ∧ t.regs.cmd = s.regs.cmd ∧ t.regs.inb = s.regs.inb ∧
      t.regs.xt = s.regs.xt ∧ t.regs.xh = s.regs.xh) ∧
    (i ≠ .thpk → i ≠ .ofsenc → t.regs.data = s.regs.data) ∧
    (i ≠ .crcgen → i ≠ .frmcd → t.regs.crc = s.regs.crc) ∧
    (i ≠ .frmc → i ≠ .frmcd → t.regs.outlen = s.regs.outlen ∧ t.regs.out = s.regs.out) ∧
    (i ≠ .frmcd → ∀ k : Fin 5, 2 ≤ k.val → t.regs.out[k] = s.regs.out[k]) ∧
    ((∀ k, i ≠ .chk1 k) → i ≠ .chk2 → i ≠ .chk3 → (∀ k, i ≠ .tenc k) → (∀ k, i ≠ .henc k) →
      t.regs.word = s.regs.word) ∧
    (∀ k : BitVec 2, i = .chk1 k ∨ i = .tenc k ∨ i = .henc k →
      ∀ j : Fin 3, j.val ≠ k.toNat → t.regs.word[j] = s.regs.word[j]) ∧
    ((∀ k, i ≠ .tdec k) → (∀ k, i ≠ .ofsdec k) → t.regs.yt = s.regs.yt) ∧
    ((∀ k, i ≠ .hdec k) → (∀ k, i ≠ .ofsdec k) → t.regs.yh = s.regs.yh) ∧
    t.encRoundT = s.encRoundT ∧ t.pending = s.pending ∧ t.reads = s.reads

/-- R120, R125: every operation completes, in every state; where a source is unwritten that is the model's
choice (log entry 2). -/
def Obligations.EveryOperationCompletes : Prop :=
  (∀ (i : Instr) (s : State), ∃ t, exec i s = .next t) ∧
  (∀ (s : State) (v : Byte) (rest : List HostAccess), s.pending = .write 0x00 (.b8 v) :: rest →
    ∃ t, step s = .next t ∧ t.regs.ctrl = v ∧ t.pending = rest ∧ t.regs.status ∈ statusValues ∧
      t.regs.status ≠ 0x00)

/-- R13, R27, R100: after an operation STATUS says success, or names an error and then nothing but
STATUS has changed. -/
def Obligations.AFailedOperationWritesOnlyStatus : Prop :=
  ∀ (i : Instr) (s t : State), exec i s = .next t →
    t.regs.status = 0x01 ∨
    (t.regs.status ∈ [0x02#8, 0x12#8, 0x22#8, 0x04#8, 0x14#8, 0x06#8] ∧
      t.regs = { s.regs with status := t.regs.status })

/-- R105, R75, R107, R121: an operation that reads an unwritten source is recorded, with the registers
as they stood, whether or not it also raises an error; an earlier record stays. -/
def Obligations.UnwrittenSourcesAreRecorded : Prop :=
  ∀ (i : Instr) (s t : State), exec i s = .next t → t.unwrittenFault = record s (sourcesOf i)

/-- R105: the fault record is never cleared, by no step, a reset included. -/
def Obligations.TheFaultRecordIsNeverCleared : Prop :=
  ∀ (s t : State) (r : UnwrittenRecord), s.unwrittenFault = some r → step s = .next t →
    t.unwrittenFault = some r

/-- R23, R75, R105: with no record standing, the model that stops at `UNWRITTEN` faults exactly where the
host's access reads an unwritten register, be it a `RegRead` or a source of the operation a legal CTRL
value starts, and otherwise does what `step` does, which records nothing; with a record standing or made
by the step it answers that fault, and it answers a next state exactly where `step` does and no record
stands before or after. What the record keeps, and that `step` goes on, is the model's choice (log entries
7 and 2). -/
def Obligations.TheStrictModelStopsAtTheFirstUnwrittenRead : Prop :=
  (∀ (s : State) (f : Fault), s.unwrittenFault = none →
    (Safety.strictStep s = .fault f ↔ ∃ r, ReadsUnwritten s r ∧ f = .unwritten r)) ∧
  (∀ s : State, s.unwrittenFault = none → (∀ r, ¬ ReadsUnwritten s r) →
    Safety.strictStep s = step s ∧ ∀ t, step s = .next t → t.unwrittenFault = none) ∧
  (∀ (s : State) (r : UnwrittenRecord), s.unwrittenFault = some r →
    Safety.strictStep s = .fault (.unwritten r)) ∧
  (∀ s t : State, Safety.strictStep s = .next t ↔
    (step s = .next t ∧ s.unwrittenFault = none ∧ t.unwrittenFault = none)) ∧
  (∀ (s t : State) (r : UnwrittenRecord), s.unwrittenFault = none → step s = .next t →
    t.unwrittenFault = some r → Safety.strictStep s = .fault (.unwritten r))

/-- R23: a register once written stays written until the next reset. -/
def Obligations.WrittenRegistersStayWrittenUntilReset : Prop :=
  ∀ (s t : State) (r : Reg), step s = .next t → s.pending.head? ≠ some .reset →
    isWritten s.regs r = true → isWritten t.regs r = true

/-- R23, R105: the bits unwritten registers hold (the model's choice at reset, log entry 1) cannot be
seen by a step that reads no unwritten register: two machines that differ only there take the same step
and still differ only there. -/
def Obligations.UnwrittenBitsDoNotMatterInACleanStep : Prop :=
  ∀ s s' t : State, AgreeState s s' → step s = .next t → t.unwrittenFault = none →
    ∃ t', step s' = .next t' ∧ AgreeState t t'

/-- R51, R9: a step takes exactly the first access off `pending` and never changes `ENC_ROUND_T`; a read
adds one value to what the host has read, and no other access adds any. -/
def Obligations.AStepTakesOneAccessInOrder : Prop :=
  ∀ s t : State, step s = .next t →
    t.pending = s.pending.tail ∧ t.encRoundT = s.encRoundT ∧
    (∀ n rest, s.pending = .read n :: rest → ∃ v, t.reads = v :: s.reads) ∧
    ((∀ n rest, s.pending ≠ .read n :: rest) → t.reads = s.reads)

/-- The invariant `Inv` holds after reset. -/
def Obligations.TheMachineInvariantHoldsAtReset : Prop := Inv State.reset

/-- R27, R32, R63, R98, R105: every step from a state with `Inv` gives a state with `Inv`. -/
def Obligations.EveryStepKeepsTheMachineInvariant : Prop :=
  ∀ s t : State, Inv s → step s = .next t → Inv t
end

