-- ==== Sys2Proof/Laws/Binary64.lean ====
section
/-!
SUPPORT. The fields of a packed binary64 pattern, and the first facts about the rounding function.
-/

namespace Sys2Proof.Machine

theorem f64MagBits_lt (a : F64) : f64MagBits a < 2 ^ 63 := Nat.mod_lt _ (by decide)

@[simp] theorem f64MagBits_pack (s : Bool) (m : Nat) : f64MagBits (f64Pack s m) = m % 2 ^ 63 := by
  simp only [f64MagBits, f64Pack, BitVec.toNat_append, BitVec.toNat_ofNat]
  rw [Nat.or_mod_two_pow, Nat.shiftLeft_eq, Nat.mul_mod_left, Nat.mod_mod]
  simp

@[simp] theorem f64Sign_pack (s : Bool) (m : Nat) : f64Sign (f64Pack s m) = s := by
  rw [f64Sign, f64Pack, BitVec.getLsbD_append]
  cases s <;> rfl

theorem roundMag_le_infMag (n d : Nat) : roundMag n d ≤ infMag := Nat.min_le_right _ _

theorem infMag_lt : infMag < 2 ^ 63 := by decide

/-- The rounding function's result survives packing. -/
@[simp] theorem f64MagBits_pack_roundMag (s : Bool) (n d : Nat) :
    f64MagBits (f64Pack s (roundMag n d)) = roundMag n d := by
  rw [f64MagBits_pack, Nat.mod_eq_of_lt (Nat.lt_of_le_of_lt (roundMag_le_infMag n d) infMag_lt)]

/-- A value is NaN, infinite or finite. -/
theorem f64_classes (a : F64) : isNaN a = true ∨ isInf a = true ∨ isFinite a = true := by
  simp only [isNaN, isInf, isFinite, decide_eq_true_eq]
  omega

@[simp] theorem f64MagBits_fneg (a : F64) : f64MagBits (fneg a) = f64MagBits a := by
  simp only [f64MagBits, fneg, BitVec.toNat_xor]
  rw [Nat.xor_mod_two_pow]
  simp

@[simp] theorem f64Sign_fneg (a : F64) : f64Sign (fneg a) = !f64Sign a := by
  simp [f64Sign, fneg]

@[simp] theorem f64Sign_fabs (a : F64) : f64Sign (fabs a) = false := by
  simp [f64Sign, fabs]

theorem magUnits_zero : magUnits 0 = 0 := by simp [magUnits]

/-- A finite magnitude is zero exactly when its pattern is. -/
theorem magUnits_eq_zero {p : Nat} : magUnits p = 0 ↔ p = 0 := by
  constructor
  · intro h
    unfold magUnits at h
    split at h
    · omega
    · simp at h
  · rintro rfl
    exact magUnits_zero

theorem f64Mag_eq_zero {a : F64} : f64Mag a = 0 ↔ f64MagBits a = 0 := magUnits_eq_zero

/-! ### Classification -/

@[simp] theorem isNaN_fneg (a : F64) : isNaN (fneg a) = isNaN a := by simp [isNaN]

@[simp] theorem isInf_fneg (a : F64) : isInf (fneg a) = isInf a := by simp [isInf]

@[simp] theorem isNaN_f64NaN : isNaN f64NaN = true := by decide +kernel

@[simp] theorem isInf_pack_infMag (s : Bool) : isInf (f64Pack s infMag) = true := by
  simp [isInf, infMag]

theorem isNaN_of_isInf {a : F64} (h : isInf a = true) : isNaN a = false := by
  simp only [isInf, isNaN, decide_eq_true_eq, decide_eq_false_iff_not] at *
  omega

theorem isNaN_of_isFinite {a : F64} (h : isFinite a = true) : isNaN a = false := by
  simp only [isFinite, isNaN, decide_eq_true_eq, decide_eq_false_iff_not] at *
  omega

theorem isInf_of_isFinite {a : F64} (h : isFinite a = true) : isInf a = false := by
  simp only [isFinite, isInf, decide_eq_true_eq, decide_eq_false_iff_not] at *
  omega

end Sys2Proof.Machine
end

