-- ==== Sys2Proof/Laws/State.lean ====
section
/-!
SUPPORT. One lemma per field and update, so that no proof unfolds a record update.
-/

namespace Sys2Proof.Machine


@[simp] theorem Slot.of_val {w : Nat} (v : BitVec w) : (Slot.of v).val = v := rfl
@[simp] theorem Slot.of_written {w : Nat} (v : BitVec w) : (Slot.of v).written = true := rfl
@[simp] theorem Slot.unwritten_written (w : Nat) : (Slot.unwritten w).written = false := rfl


/-! ### noteReads -/

@[simp] theorem noteReads_regs (s : State) (srcs : List Reg) :
    (noteReads s srcs).regs = s.regs := rfl
@[simp] theorem noteReads_encRoundT (s : State) (srcs : List Reg) :
    (noteReads s srcs).encRoundT = s.encRoundT := rfl
@[simp] theorem noteReads_pending (s : State) (srcs : List Reg) :
    (noteReads s srcs).pending = s.pending := rfl
@[simp] theorem noteReads_reads (s : State) (srcs : List Reg) :
    (noteReads s srcs).reads = s.reads := rfl
@[simp] theorem noteReads_unwrittenFault (s : State) (srcs : List Reg) :
    (noteReads s srcs).unwrittenFault = recordAfter s srcs := rfl

/-! ### raise -/

@[simp] theorem raise_encRoundT (e : OpError) (s : State) :
    (raise e s).encRoundT = s.encRoundT := rfl
@[simp] theorem raise_pending (e : OpError) (s : State) :
    (raise e s).pending = s.pending := rfl
@[simp] theorem raise_reads (e : OpError) (s : State) :
    (raise e s).reads = s.reads := rfl
@[simp] theorem raise_unwrittenFault (e : OpError) (s : State) :
    (raise e s).unwrittenFault = s.unwrittenFault := rfl
@[simp] theorem raise_regs_ctrl (e : OpError) (s : State) :
    (raise e s).regs.ctrl = s.regs.ctrl := rfl
@[simp] theorem raise_regs_status (e : OpError) (s : State) :
    (raise e s).regs.status = statusOfError e := rfl
@[simp] theorem raise_regs_cmd (e : OpError) (s : State) :
    (raise e s).regs.cmd = s.regs.cmd := rfl
@[simp] theorem raise_regs_data (e : OpError) (s : State) :
    (raise e s).regs.data = s.regs.data := rfl
@[simp] theorem raise_regs_crc (e : OpError) (s : State) :
    (raise e s).regs.crc = s.regs.crc := rfl
@[simp] theorem raise_regs_outlen (e : OpError) (s : State) :
    (raise e s).regs.outlen = s.regs.outlen := rfl
@[simp] theorem raise_regs_out (e : OpError) (s : State) :
    (raise e s).regs.out = s.regs.out := rfl
@[simp] theorem raise_regs_inb (e : OpError) (s : State) :
    (raise e s).regs.inb = s.regs.inb := rfl
@[simp] theorem raise_regs_word (e : OpError) (s : State) :
    (raise e s).regs.word = s.regs.word := rfl
@[simp] theorem raise_regs_xt (e : OpError) (s : State) :
    (raise e s).regs.xt = s.regs.xt := rfl
@[simp] theorem raise_regs_xh (e : OpError) (s : State) :
    (raise e s).regs.xh = s.regs.xh := rfl
@[simp] theorem raise_regs_yt (e : OpError) (s : State) :
    (raise e s).regs.yt = s.regs.yt := rfl
@[simp] theorem raise_regs_yh (e : OpError) (s : State) :
    (raise e s).regs.yh = s.regs.yh := rfl

/-! ### commit -/

@[simp] theorem commit_encRoundT (f : RegFile) (s : State) :
    (commit f s).encRoundT = s.encRoundT := rfl
@[simp] theorem commit_pending (f : RegFile) (s : State) :
    (commit f s).pending = s.pending := rfl
@[simp] theorem commit_reads (f : RegFile) (s : State) :
    (commit f s).reads = s.reads := rfl
@[simp] theorem commit_unwrittenFault (f : RegFile) (s : State) :
    (commit f s).unwrittenFault = s.unwrittenFault := rfl
@[simp] theorem commit_regs_ctrl (f : RegFile) (s : State) :
    (commit f s).regs.ctrl = f.ctrl := rfl
@[simp] theorem commit_regs_status (f : RegFile) (s : State) :
    (commit f s).regs.status = statusOk := rfl
@[simp] theorem commit_regs_cmd (f : RegFile) (s : State) :
    (commit f s).regs.cmd = f.cmd := rfl
@[simp] theorem commit_regs_data (f : RegFile) (s : State) :
    (commit f s).regs.data = f.data := rfl
@[simp] theorem commit_regs_crc (f : RegFile) (s : State) :
    (commit f s).regs.crc = f.crc := rfl
@[simp] theorem commit_regs_outlen (f : RegFile) (s : State) :
    (commit f s).regs.outlen = f.outlen := rfl
@[simp] theorem commit_regs_out (f : RegFile) (s : State) :
    (commit f s).regs.out = f.out := rfl
@[simp] theorem commit_regs_inb (f : RegFile) (s : State) :
    (commit f s).regs.inb = f.inb := rfl
@[simp] theorem commit_regs_word (f : RegFile) (s : State) :
    (commit f s).regs.word = f.word := rfl
@[simp] theorem commit_regs_xt (f : RegFile) (s : State) :
    (commit f s).regs.xt = f.xt := rfl
@[simp] theorem commit_regs_xh (f : RegFile) (s : State) :
    (commit f s).regs.xh = f.xh := rfl
@[simp] theorem commit_regs_yt (f : RegFile) (s : State) :
    (commit f s).regs.yt = f.yt := rfl
@[simp] theorem commit_regs_yh (f : RegFile) (s : State) :
    (commit f s).regs.yh = f.yh := rfl

/-! ### hostReset and withFetchWord -/

@[simp] theorem hostReset_regs (s : State) :
    (hostReset s).regs = RegFile.reset := rfl
@[simp] theorem hostReset_encRoundT (s : State) :
    (hostReset s).encRoundT = s.encRoundT := rfl
@[simp] theorem hostReset_pending (s : State) :
    (hostReset s).pending = s.pending := rfl
@[simp] theorem hostReset_reads (s : State) :
    (hostReset s).reads = s.reads := rfl
@[simp] theorem hostReset_unwrittenFault (s : State) :
    (hostReset s).unwrittenFault = s.unwrittenFault := rfl
@[simp] theorem withFetchWord_regs (s : State) (n w : Nat) :
    (s.withFetchWord n w).regs = s.regs := rfl
@[simp] theorem withFetchWord_encRoundT (s : State) (n w : Nat) :
    (s.withFetchWord n w).encRoundT = s.encRoundT := rfl
@[simp] theorem withFetchWord_pending (s : State) (n w : Nat) :
    (s.withFetchWord n w).pending = ctrlWrite (tableByte n w) :: s.pending := rfl
@[simp] theorem withFetchWord_reads (s : State) (n w : Nat) :
    (s.withFetchWord n w).reads = s.reads := rfl
@[simp] theorem withFetchWord_unwrittenFault (s : State) (n w : Nat) :
    (s.withFetchWord n w).unwrittenFault = s.unwrittenFault := rfl

/-! ### putOut, putWord, putCommand and putFrame -/

@[simp] theorem putOut_ctrl (g : RegFile) (k : Fin 5) (b : Byte) :
    (putOut g k b).ctrl = g.ctrl := rfl
@[simp] theorem putOut_status (g : RegFile) (k : Fin 5) (b : Byte) :
    (putOut g k b).status = g.status := rfl
@[simp] theorem putOut_cmd (g : RegFile) (k : Fin 5) (b : Byte) :
    (putOut g k b).cmd = g.cmd := rfl
@[simp] theorem putOut_data (g : RegFile) (k : Fin 5) (b : Byte) :
    (putOut g k b).data = g.data := rfl
@[simp] theorem putOut_crc (g : RegFile) (k : Fin 5) (b : Byte) :
    (putOut g k b).crc = g.crc := rfl
@[simp] theorem putOut_outlen (g : RegFile) (k : Fin 5) (b : Byte) :
    (putOut g k b).outlen = g.outlen := rfl
@[simp] theorem putOut_out (g : RegFile) (k : Fin 5) (b : Byte) :
    (putOut g k b).out = g.out.set k (.of b) := rfl
@[simp] theorem putOut_inb (g : RegFile) (k : Fin 5) (b : Byte) :
    (putOut g k b).inb = g.inb := rfl
@[simp] theorem putOut_word (g : RegFile) (k : Fin 5) (b : Byte) :
    (putOut g k b).word = g.word := rfl
@[simp] theorem putOut_xt (g : RegFile) (k : Fin 5) (b : Byte) :
    (putOut g k b).xt = g.xt := rfl
@[simp] theorem putOut_xh (g : RegFile) (k : Fin 5) (b : Byte) :
    (putOut g k b).xh = g.xh := rfl
@[simp] theorem putOut_yt (g : RegFile) (k : Fin 5) (b : Byte) :
    (putOut g k b).yt = g.yt := rfl
@[simp] theorem putOut_yh (g : RegFile) (k : Fin 5) (b : Byte) :
    (putOut g k b).yh = g.yh := rfl
@[simp] theorem putWord_ctrl (g : RegFile) (k : Fin 3) (w : Word16) :
    (putWord g k w).ctrl = g.ctrl := rfl
@[simp] theorem putWord_status (g : RegFile) (k : Fin 3) (w : Word16) :
    (putWord g k w).status = g.status := rfl
@[simp] theorem putWord_cmd (g : RegFile) (k : Fin 3) (w : Word16) :
    (putWord g k w).cmd = g.cmd := rfl
@[simp] theorem putWord_data (g : RegFile) (k : Fin 3) (w : Word16) :
    (putWord g k w).data = g.data := rfl
@[simp] theorem putWord_crc (g : RegFile) (k : Fin 3) (w : Word16) :
    (putWord g k w).crc = g.crc := rfl
@[simp] theorem putWord_outlen (g : RegFile) (k : Fin 3) (w : Word16) :
    (putWord g k w).outlen = g.outlen := rfl
@[simp] theorem putWord_out (g : RegFile) (k : Fin 3) (w : Word16) :
    (putWord g k w).out = g.out := rfl
@[simp] theorem putWord_inb (g : RegFile) (k : Fin 3) (w : Word16) :
    (putWord g k w).inb = g.inb := rfl
@[simp] theorem putWord_word (g : RegFile) (k : Fin 3) (w : Word16) :
    (putWord g k w).word = g.word.set k (.of w) := rfl
@[simp] theorem putWord_xt (g : RegFile) (k : Fin 3) (w : Word16) :
    (putWord g k w).xt = g.xt := rfl
@[simp] theorem putWord_xh (g : RegFile) (k : Fin 3) (w : Word16) :
    (putWord g k w).xh = g.xh := rfl
@[simp] theorem putWord_yt (g : RegFile) (k : Fin 3) (w : Word16) :
    (putWord g k w).yt = g.yt := rfl
@[simp] theorem putWord_yh (g : RegFile) (k : Fin 3) (w : Word16) :
    (putWord g k w).yh = g.yh := rfl
@[simp] theorem putCommand_ctrl (g : RegFile) :
    (putCommand g).ctrl = g.ctrl := rfl
@[simp] theorem putCommand_status (g : RegFile) :
    (putCommand g).status = g.status := rfl
@[simp] theorem putCommand_cmd (g : RegFile) :
    (putCommand g).cmd = g.cmd := rfl
@[simp] theorem putCommand_data (g : RegFile) :
    (putCommand g).data = g.data := rfl
@[simp] theorem putCommand_crc (g : RegFile) :
    (putCommand g).crc = g.crc := rfl
@[simp] theorem putCommand_outlen (g : RegFile) :
    (putCommand g).outlen = g.outlen := rfl
@[simp] theorem putCommand_inb (g : RegFile) :
    (putCommand g).inb = g.inb := rfl
@[simp] theorem putCommand_word (g : RegFile) :
    (putCommand g).word = g.word := rfl
@[simp] theorem putCommand_xt (g : RegFile) :
    (putCommand g).xt = g.xt := rfl
@[simp] theorem putCommand_xh (g : RegFile) :
    (putCommand g).xh = g.xh := rfl
@[simp] theorem putCommand_yt (g : RegFile) :
    (putCommand g).yt = g.yt := rfl
@[simp] theorem putCommand_yh (g : RegFile) :
    (putCommand g).yh = g.yh := rfl
@[simp] theorem putFrame_ctrl (g : RegFile) :
    (putFrame g).ctrl = g.ctrl := rfl
@[simp] theorem putFrame_status (g : RegFile) :
    (putFrame g).status = g.status := rfl
@[simp] theorem putFrame_cmd (g : RegFile) :
    (putFrame g).cmd = g.cmd := rfl
@[simp] theorem putFrame_data (g : RegFile) :
    (putFrame g).data = g.data := rfl
@[simp] theorem putFrame_crc (g : RegFile) :
    (putFrame g).crc = .of (crcOfWord g.data.val) := rfl
@[simp] theorem putFrame_outlen (g : RegFile) :
    (putFrame g).outlen = 5 := rfl
@[simp] theorem putFrame_out (g : RegFile) :
    (putFrame g).out = frameBytes g.cmd.val g.data.val := rfl
@[simp] theorem putFrame_inb (g : RegFile) :
    (putFrame g).inb = g.inb := rfl
@[simp] theorem putFrame_word (g : RegFile) :
    (putFrame g).word = g.word := rfl
@[simp] theorem putFrame_xt (g : RegFile) :
    (putFrame g).xt = g.xt := rfl
@[simp] theorem putFrame_xh (g : RegFile) :
    (putFrame g).xh = g.xh := rfl
@[simp] theorem putFrame_yt (g : RegFile) :
    (putFrame g).yt = g.yt := rfl
@[simp] theorem putFrame_yh (g : RegFile) :
    (putFrame g).yh = g.yh := rfl

/-! ### The registers after reset -/

@[simp] theorem reset_ctrl  :
    RegFile.reset.ctrl = 0x00 := rfl
@[simp] theorem reset_status  :
    RegFile.reset.status = 0x00 := rfl
@[simp] theorem reset_outlen  :
    RegFile.reset.outlen = 0x00 := rfl
@[simp] theorem reset_cmd  :
    RegFile.reset.cmd = .unwritten 16 := rfl
@[simp] theorem reset_data  :
    RegFile.reset.data = .unwritten 16 := rfl
@[simp] theorem reset_crc  :
    RegFile.reset.crc = .unwritten 8 := rfl
@[simp] theorem reset_xt  :
    RegFile.reset.xt = .unwritten 64 := rfl
@[simp] theorem reset_xh  :
    RegFile.reset.xh = .unwritten 64 := rfl
@[simp] theorem reset_yt  :
    RegFile.reset.yt = .unwritten 64 := rfl
@[simp] theorem reset_yh  :
    RegFile.reset.yh = .unwritten 64 := rfl

end Sys2Proof.Machine
end

