-- ==== Sys2Proof/Laws/Ops.lean ====
section
/-!
SUPPORT. What each shared operation can do, said once: the operation frame, the operand SEL, the fault
record and the host port.
-/

namespace Sys2Proof.Machine

/-! ### The fault record -/

theorem recordAfter_of_recorded {s : State} {r : UnwrittenRecord} (srcs : List Reg)
    (h : s.unwrittenFault = some r) : recordAfter s srcs = some r := by
  simp [recordAfter, h]

theorem recordAfter_of_clean {s : State} (srcs : List Reg) (h : s.unwrittenFault = none) :
    recordAfter s srcs =
      if srcs.filter (fun r => !isWritten s.regs r) = [] then none
      else some ⟨srcs.filter (fun r => !isWritten s.regs r), s.regs⟩ := by
  unfold recordAfter
  rw [h]
  cases srcs.filter (fun r => !isWritten s.regs r) <;> simp

theorem recordAfter_nil (s : State) : recordAfter s [] = s.unwrittenFault := by
  cases h : s.unwrittenFault <;> simp [recordAfter, h]

/-- No record after reading `srcs` means there was none and every source was written. -/
theorem recordAfter_eq_none {s : State} {srcs : List Reg} :
    recordAfter s srcs = none ↔
      s.unwrittenFault = none ∧ ∀ r ∈ srcs, isWritten s.regs r = true := by
  cases h : s.unwrittenFault with
  | some r => simp [recordAfter_of_recorded srcs h]
  | none =>
    rw [recordAfter_of_clean srcs h]
    simp [List.filter_eq_nil_iff]

/-! ### The operation frame -/

theorem perform_of_error {srcs : List Reg} {c : RegFile → Except OpError RegFile} {s : State}
    {e : OpError} (h : c s.regs = .error e) : perform srcs c s = raise e (noteReads s srcs) := by
  simp [perform, h]

theorem perform_of_ok {srcs : List Reg} {c : RegFile → Except OpError RegFile} {s : State}
    {f : RegFile} (h : c s.regs = .ok f) : perform srcs c s = commit f (noteReads s srcs) := by
  simp [perform, h]

/-- Everything the operation frame can do: raise, or write the computed registers at once. -/
theorem perform_cases (srcs : List Reg) (c : RegFile → Except OpError RegFile) (s : State) :
    (∃ e, c s.regs = .error e ∧ perform srcs c s = raise e (noteReads s srcs)) ∨
    (∃ f, c s.regs = .ok f ∧ perform srcs c s = commit f (noteReads s srcs)) := by
  cases h : c s.regs with
  | error e => exact .inl ⟨e, rfl, perform_of_error h⟩
  | ok f => exact .inr ⟨f, rfl, perform_of_ok h⟩

@[simp] theorem perform_unwrittenFault (srcs : List Reg) (c : RegFile → Except OpError RegFile)
    (s : State) : (perform srcs c s).unwrittenFault = recordAfter s srcs := by
  obtain ⟨e, -, h⟩ | ⟨f, -, h⟩ := perform_cases srcs c s <;> simp [h]

@[simp] theorem perform_encRoundT (srcs : List Reg) (c : RegFile → Except OpError RegFile)
    (s : State) : (perform srcs c s).encRoundT = s.encRoundT := by
  obtain ⟨e, -, h⟩ | ⟨f, -, h⟩ := perform_cases srcs c s <;> simp [h]

@[simp] theorem perform_pending (srcs : List Reg) (c : RegFile → Except OpError RegFile)
    (s : State) : (perform srcs c s).pending = s.pending := by
  obtain ⟨e, -, h⟩ | ⟨f, -, h⟩ := perform_cases srcs c s <;> simp [h]

@[simp] theorem perform_reads (srcs : List Reg) (c : RegFile → Except OpError RegFile)
    (s : State) : (perform srcs c s).reads = s.reads := by
  obtain ⟨e, -, h⟩ | ⟨f, -, h⟩ := perform_cases srcs c s <;> simp [h]

/-! ### The operand SEL -/

theorem wordIndex_ofNat (k : Fin 3) : wordIndex (BitVec.ofNat 2 k.val) = some k := by
  revert k; decide

theorem wordIndex_three : wordIndex 3 = none := rfl

theorem performSel_ofNat (k : Fin 3) (op : Fin 3 → State → State) (s : State) :
    performSel (BitVec.ofNat 2 k.val) op s = op k s := by
  simp [performSel, wordIndex_ofNat]

/-- A SEL operand is 3, or the number of a WORD register. -/
theorem sel_cases (k : BitVec 2) : k = 3 ∨ ∃ i : Fin 3, k = BitVec.ofNat 2 i.val := by
  revert k; decide

/-- Everything an operation with a SEL can do. -/
theorem performSel_cases (k : BitVec 2) (op : Fin 3 → State → State) (s : State) :
    (k = 3 ∧ performSel k op s = raise .illegalOp s) ∨
    (∃ i : Fin 3, k = BitVec.ofNat 2 i.val ∧ performSel k op s = op i s) := by
  obtain rfl | ⟨i, rfl⟩ := sel_cases k
  · exact .inl ⟨rfl, rfl⟩
  · exact .inr ⟨i, rfl, performSel_ofNat i op s⟩

/-! ### STATUS -/

theorem statusOk_eq : statusOk = 0x01 := by decide

theorem statusOfError_crc (g : Fin 3) : statusOfError (.crcError g) = BitVec.ofNat 8 (16 * g.val + 2) := by
  revert g; decide

theorem statusOfError_range (l : Fin 2) :
    statusOfError (.rangeError l) = BitVec.ofNat 8 (16 * l.val + 4) := by
  revert l; decide

/-- STATUS after an error reads back as OK = 0, the error's code and its group or lane (R27, R101). -/
theorem statusOfError_fields (e : OpError) : statusOkBit (statusOfError e) = false ∧
    statusErr (statusOfError e) = errorCode e ∧ statusGrp (statusOfError e) = errorIndex e := by
  cases e with
  | crcError g => revert g; decide
  | rangeError l => revert l; decide
  | illegalOp => decide

theorem statusOk_fields :
    statusOkBit statusOk = true ∧ statusErr statusOk = 0 ∧ statusGrp statusOk = 0 := by decide

theorem statusOfError_illegal : statusOfError .illegalOp = 0x06 := by decide

/-! ### Registers by number -/

theorem regOfNumber_numberOfReg (r : Reg) : regOfNumber (numberOfReg r) = some r := by
  cases r with
  | out k => revert k; decide
  | inb k => revert k; decide
  | word k => revert k; decide
  | _ => decide

/-- A host write is accepted exactly when the value has the register's width. -/
theorem storeReg_isSome (f : RegFile) (r : Reg) (v : RegValue) :
    (storeReg f r v).isSome = true ↔ v.width = (regValue f r).width := by
  cases r <;> cases v <;> simp [storeReg, regValue, RegValue.width]

/-- A host write changes no register but the one it names. -/
theorem storeReg_frame {f g : RegFile} {r r' : Reg} {v : RegValue} (h : storeReg f r v = some g)
    (hr : r' ≠ r) : regValue g r' = regValue f r' ∧ isWritten g r' = isWritten f r' := by
  cases r <;> cases v <;> simp [storeReg] at h <;> subst h <;> cases r' <;>
    simp_all [regValue, isWritten, Fin.ext_iff, eq_comm]

/-- A host write of a read/write register stores the value and clears the mark. -/
theorem storeReg_stores {f g : RegFile} {r : Reg} {v : RegValue} (h : storeReg f r v = some g)
    (hr : readOnly r = false) : regValue g r = v ∧ isWritten g r = true := by
  cases r <;> cases v <;> simp [storeReg, readOnly] at h hr <;> subst h <;>
    simp [regValue, isWritten]

/-- A host write of a read-only register leaves the file as it was. -/
theorem storeReg_readOnly {f g : RegFile} {r : Reg} {v : RegValue} (h : storeReg f r v = some g)
    (hr : readOnly r = true) : g = f := by
  cases r <;> cases v <;> simp_all [storeReg, readOnly]

/-! ### One host access -/

theorem startOperation_of_error {v : Byte} {x : Reject} (h : decode v = .error x) (s : State) :
    startOperation v s = .next (raise .illegalOp s) := by
  simp [startOperation, h]

theorem startOperation_of_ok {v : Byte} {i : Instr} (h : decode v = .ok i) (s : State) :
    startOperation v s = exec i s := by
  simp [startOperation, h]

theorem hostWrite_ctrl (v : Byte) (s : State) :
    hostWrite 0x00 (.b8 v) s = startOperation v { s with regs := { s.regs with ctrl := v } } := rfl

/-- Everything a host write can do. -/
theorem hostWrite_cases (n : Byte) (v : RegValue) (s : State) :
    (regOfNumber n = none ∧ hostWrite n v s = .next s) ∨
    (∃ r, regOfNumber n = some r ∧ storeReg s.regs r v = none ∧
      hostWrite n v s = .refused (.widthMismatch r v)) ∨
    (∃ r f, regOfNumber n = some r ∧ r ≠ .ctrl ∧ storeReg s.regs r v = some f ∧
      hostWrite n v s = .next { s with regs := f }) ∨
    (∃ b, regOfNumber n = some .ctrl ∧ v = .b8 b ∧
      hostWrite n v s = startOperation b { s with regs := { s.regs with ctrl := b } }) := by
  unfold hostWrite
  cases hn : regOfNumber n with
  | none => exact .inl ⟨rfl, rfl⟩
  | some r =>
    cases hs : storeReg s.regs r v with
    | none => exact .inr (.inl ⟨r, rfl, hs, by simp [hs]⟩)
    | some f =>
      by_cases hc : r = .ctrl
      · subst hc
        cases v <;> simp [storeReg] at hs
        subst hs
        exact .inr (.inr (.inr ⟨_, rfl, rfl, by simp [storeReg]⟩))
      · exact .inr (.inr (.inl ⟨r, f, rfl, hc, hs, by simp [hs, hc]⟩))

theorem step_idle {s : State} (h : s.pending = []) : step s = .next s := by simp [step, h]

theorem step_access {s : State} {a : HostAccess} {rest : List HostAccess} (h : s.pending = a :: rest) :
    step s = hostAccess a { s with pending := rest } := by simp [step, h]

/-- Where a next state comes from: nothing was pending, or the first access was performed. -/
theorem step_next_cases {s t : State} (h : step s = .next t) :
    (s.pending = [] ∧ t = s) ∨
    (∃ a rest, s.pending = a :: rest ∧ hostAccess a { s with pending := rest } = .next t) := by
  cases hp : s.pending with
  | nil =>
    rw [step_idle hp] at h
    exact .inl ⟨rfl, (Host.Outcome.next.inj h).symm⟩
  | cons a rest => exact .inr ⟨a, rest, rfl, by rw [← step_access hp, h]⟩

end Sys2Proof.Machine
end

