-- ==== Sys2Proof/Laws/Meanings.lean ====
section
/-!
SUPPORT. What the helpers of the meanings can answer: the group checks, the lanes and the word index.
-/

namespace Sys2Proof.Machine

/-- A check that succeeds gives the file it was offered, and found no bad group. -/
theorem checkGroups_ok {gs : List (Fin 3)} {f g h : RegFile} (e : checkGroups gs f g = .ok h) :
    h = g ∧ firstBadGroup f gs = none := by
  unfold checkGroups at e
  split at e <;> simp_all

/-- A check that fails names the first bad group. -/
theorem checkGroups_error {gs : List (Fin 3)} {f g : RegFile} {x : OpError}
    (e : checkGroups gs f g = .error x) : ∃ b, x = .crcError b ∧ firstBadGroup f gs = some b := by
  unfold checkGroups at e
  split at e <;> simp_all

/-- No group is reported exactly when every group checked is valid. -/
theorem firstBadGroup_eq_none {f : RegFile} {gs : List (Fin 3)} :
    firstBadGroup f gs = none ↔ ∀ g ∈ gs, groupOk f g = true := by
  induction gs with
  | nil => simp [firstBadGroup]
  | cons g gs ih =>
    cases h : groupOk f g <;> simp [firstBadGroup, h, ih]

/-- A reported group is one of those checked, and is bad. -/
theorem firstBadGroup_bad {f : RegFile} {gs : List (Fin 3)} {b : Fin 3}
    (h : firstBadGroup f gs = some b) : b ∈ gs ∧ groupOk f b = false := by
  induction gs with
  | nil => simp [firstBadGroup] at h
  | cons g gs ih =>
    cases hg : groupOk f g with
    | false => simp [firstBadGroup, hg] at h; subst h; simp [hg]
    | true =>
      simp [firstBadGroup, hg] at h
      exact ⟨List.mem_cons_of_mem _ (ih h).1, (ih h).2⟩

theorem inLane_ok {α : Type} {lane : Fin 2} {o : Option α} {v : α} (h : inLane lane o = .ok v) :
    o = some v := by
  cases o <;> simp_all [inLane]

theorem inLane_error {α : Type} {lane : Fin 2} {o : Option α} {x : OpError}
    (h : inLane lane o = .error x) : o = none ∧ x = .rangeError lane := by
  cases o <;> simp_all [inLane]

theorem codeInto_ok {lane : Fin 2} {i : Fin 3} {f g : RegFile} {c : Option Word16}
    (h : codeInto lane i f c = .ok g) :
    ∃ w, c = some w ∧ g = { f with word := f.word.set i (.of w) } := by
  cases c <;> simp [codeInto, inLane] at h
  exact ⟨_, rfl, h.symm⟩

theorem codeInto_error {lane : Fin 2} {i : Fin 3} {f : RegFile} {c : Option Word16} {x : OpError}
    (h : codeInto lane i f c = .error x) : c = none ∧ x = .rangeError lane := by
  cases c <;> simp [codeInto, inLane] at h
  exact ⟨rfl, h.symm⟩

theorem twoLanes_ok {α β γ : Type} {t : Option α} {h : Option β} {k : α → β → γ} {g : γ}
    (e : twoLanes t h k = .ok g) : ∃ a b, t = some a ∧ h = some b ∧ g = k a b := by
  cases t <;> cases h <;> simp [twoLanes, inLane] at e
  exact ⟨_, _, rfl, rfl, e.symm⟩

/-- Lane 0 is reported first, lane 1 only where lane 0 is in range. -/
theorem twoLanes_error {α β γ : Type} {t : Option α} {h : Option β} {k : α → β → γ} {x : OpError}
    (e : twoLanes t h k = .error x) :
    (t = none ∧ x = .rangeError 0) ∨ (t.isSome = true ∧ h = none ∧ x = .rangeError 1) := by
  cases t <;> cases h <;> simp_all [twoLanes, inLane]

theorem groupSources_one : groupSources [0] = [.inb 0, .inb 1, .inb 2] := rfl

theorem groupSources_two :
    groupSources [0, 1] = [.inb 0, .inb 1, .inb 2, .inb 3, .inb 4, .inb 5] := rfl

theorem groupSources_three : groupSources [0, 1, 2] =
    [.inb 0, .inb 1, .inb 2, .inb 3, .inb 4, .inb 5, .inb 6, .inb 7, .inb 8] := rfl

end Sys2Proof.Machine
end

