-- ==== Sys2Proof/Laws/PerInstr.lean ====
section
/-!
SUPPORT. Facts about every operation as syntax, one lemma per constructor.
-/

namespace Sys2Proof.Laws

/-- The encoder sets no reserved bit: RSV, bits 7:6, is 0 (rule R56). -/
def EncodeRsvZero.Statement (i : Instr) : Prop := ctrlRsv (encode i) = 0

namespace EncodeRsvZero

theorem crcgen : Statement .crcgen := rfl
theorem frmc : Statement .frmc := rfl
theorem frmcd : Statement .frmcd := rfl
theorem chk1 (k : BitVec 2) : Statement (.chk1 k) := by revert k; unfold Statement; decide
theorem chk2 : Statement .chk2 := rfl
theorem chk3 : Statement .chk3 := rfl
theorem tdec (k : BitVec 2) : Statement (.tdec k) := by revert k; unfold Statement; decide
theorem hdec (k : BitVec 2) : Statement (.hdec k) := by revert k; unfold Statement; decide
theorem tenc (k : BitVec 2) : Statement (.tenc k) := by revert k; unfold Statement; decide
theorem henc (k : BitVec 2) : Statement (.henc k) := by revert k; unfold Statement; decide
theorem thpk : Statement .thpk := rfl
theorem ofsenc : Statement .ofsenc := rfl
theorem ofsdec (k : BitVec 2) : Statement (.ofsdec k) := by revert k; unfold Statement; decide

end EncodeRsvZero

end Sys2Proof.Laws
end

