-- ==== Sys2Proof/Machine/HostProgram.lean ====
section
/-!
DEFINITION. The host's notation for programs (rules R68 and R69) and the command words the block carries
without interpreting them (rule R70). A program is a list of host accesses; the bus transfers between
them are outside the block.
-/

namespace Sys2Proof.Machine

/-- `wr NAME, v` for an 8-bit register (rule R68). -/
def wr8 (r : Reg) (v : Byte) : HostAccess := .write (numberOfReg r) (.b8 v)

/-- `wr NAME, v` for a 16-bit register (rule R68). -/
def wr16 (r : Reg) (v : Word16) : HostAccess := .write (numberOfReg r) (.b16 v)

/-- `wr NAME, v` for a binary64 register (rule R68). -/
def wr64 (r : Reg) (v : F64) : HostAccess := .write (numberOfReg r) (.b64 v)

/-- `rd NAME` (rule R68). -/
def rd (r : Reg) : HostAccess := .read (numberOfReg r)

/-- `MNEMONIC` or `MNEMONIC k`: a write of `{00, k, OP}` to CTRL (rule R68). -/
def opWrite (i : Instr) : HostAccess := ctrlWrite (encode i)

/-- The host stores received bytes, in wire order, from IN0 on (rule R33). -/
def storeReceived : Fin 9 → List Byte → List HostAccess
  | _, []      => []
  | k, b :: bs => wr8 (.inb k) b :: storeReceived (k + 1) bs

/-- `SENDC c` (rule R69). -/
def sendc (c : Word16) : List HostAccess := [wr16 .cmd c, opWrite .frmc]

/-- `SENDCD c, d` (rule R69). -/
def sendcd (c d : Word16) : List HostAccess := [wr16 .cmd c, wr16 .data d, opWrite .frmcd]

/-- `RECV k`, with the 3 bytes received (rule R69). -/
def recv (k : BitVec 2) (b0 b1 b2 : Byte) : List HostAccess :=
  storeReceived 0 [b0, b1, b2] ++ [opWrite (.chk1 k)]

/-- `MEAS`, with the 6 bytes received (rule R69). -/
def meas (b0 b1 b2 b3 b4 b5 : Byte) : List HostAccess :=
  storeReceived 0 [b0, b1, b2, b3, b4, b5] ++ [opWrite .chk2, opWrite (.tdec 0), opWrite (.hdec 1)]

/-- `ALERT c, T, RH` (rule R69). -/
def alert (c : Word16) (t h : F64) : List HostAccess :=
  [wr16 .cmd c, wr64 .xt t, wr64 .xh h, opWrite .thpk, opWrite .frmcd]

/-- ACCESS_OFFSETS (rule R70). -/
def accessOffsets : Word16 := 0xA004

/-- `SETOFS T, RH` (rule R69). -/
def setofs (t h : F64) : List HostAccess :=
  [wr16 .cmd accessOffsets, wr64 .xt t, wr64 .xh h, opWrite .ofsenc, opWrite .frmcd]

/-- `GETOFS`, with the 3 bytes received (rule R69). -/
def getofs (b0 b1 b2 : Byte) : List HostAccess :=
  storeReceived 0 [b0, b1, b2] ++ [opWrite (.chk1 0), opWrite (.ofsdec 0)]

/-- `NISTID`, with the 9 bytes received (rule R69). -/
def nistid (b0 b1 b2 b3 b4 b5 b6 b7 b8 : Byte) : List HostAccess :=
  storeReceived 0 [b0, b1, b2, b3, b4, b5, b6, b7, b8] ++ [opWrite .chk3]

/-- The 48-bit ID `{WORD0, WORD1, WORD2}` (rule R44). -/
def nistIdOf (f : RegFile) : BitVec 48 := (f.word[0].val ++ f.word[1].val) ++ f.word[2].val

/-- The command words of rule R70 whose values the spec gives; the 21 auto-mode and trigger-mode words
are not in it (N3). -/
def commandCatalogue : List (String × Word16) :=
  [("SOFT_RESET", 0x30A2), ("READ_MANUFACTURER_ID", 0x3781), ("NIST_ID part 1", 0x3683),
   ("NIST_ID part 2", 0x3684), ("NIST_ID part 3", 0x3685), ("ACCESS_OFFSETS", accessOffsets),
   ("SET_HEATER_POWER", 0x306E), ("ENABLE_HEATER", 0x306D), ("DISABLE_HEATER", 0x3066),
   ("READ_STATUS_REGISTER", 0xF32D), ("CLEAR_STATUS_REGISTER", 0x3041),
   ("MEASUREMENT_READOUT_AUTO_MODE", 0xE000), ("SET_LOW_ALERT", 0x6100), ("SET_HIGH_ALERT", 0x611D),
   ("CLR_LOW_ALERT", 0x610B), ("CLR_HIGH_ALERT", 0x6116)]

end Sys2Proof.Machine
end

