-- ==== Sys2Proof/Tests/Slice0.lean ====
section
/-!
SUPPORT. Tests and witnesses. Expected values are the spec's own: the vectors of 95_test_vectors.md (V, P)
and the encodings of rule R58. The witnesses show that each statement's hypotheses can be met.
-/

-- One theorem after the other: many waiting at once would need more threads than the check's memory limit has room for.
set_option Elab.async false

namespace Sys2Proof.Tests

open Sys2Proof.Machine Sys2Proof.Claims

/-! ### Helpers -/

/-- After reset, with some registers set by the host. -/
def after (f : RegFile → RegFile) : State := { State.reset with regs := f RegFile.reset }

/-- The inbound bytes, the rest unwritten. -/
def bytesIn (l : List Byte) (f : RegFile) : RegFile :=
  { f with inb := Vector.ofFn (fun k : Fin 9 => match l[k.val]? with
    | some b => .of b
    | none   => .unwritten 8) }

/-- What a result's state shows, if it is a next state. -/
def look {α : Type} (p : State → α) : Result → Option α
  | .next t    => some (p t)
  | .fault _   => none
  | .refused _ => none

/-- The machine after reset with the host about to do `l`. -/
def hostDoes (l : List HostAccess) (s : State) : State := { s with pending := l }

/-! ### WellFormed: one ill-formed term for each check -/

theorem test_wf_refuses_sel_three :
    (Instr.chk1 3).wf = false ∧ (Instr.tdec 3).wf = false ∧ (Instr.hdec 3).wf = false ∧
    (Instr.tenc 3).wf = false ∧ (Instr.henc 3).wf = false ∧ (Instr.ofsdec 3).wf = false := by decide

/-! ### Decoding: the words of rule R58, written out bit by bit -/

theorem test_decode_crcgen : decode 0b00000001 = .ok .crcgen := by decide
theorem test_decode_frmc : decode 0b00000010 = .ok .frmc := by decide
theorem test_decode_frmcd : decode 0b00000011 = .ok .frmcd := by decide
theorem test_decode_chk1 : decode 0b00000100 = .ok (.chk1 0) ∧ decode 0b00010100 = .ok (.chk1 1) ∧
    decode 0b00100100 = .ok (.chk1 2) := by decide
theorem test_decode_chk2 : decode 0b00000101 = .ok .chk2 := by decide
theorem test_decode_chk3 : decode 0b00000110 = .ok .chk3 := by decide
theorem test_decode_tdec : decode 0b00000111 = .ok (.tdec 0) ∧ decode 0b00100111 = .ok (.tdec 2) := by decide
theorem test_decode_hdec : decode 0b00001000 = .ok (.hdec 0) ∧ decode 0b00011000 = .ok (.hdec 1) := by decide
theorem test_decode_tenc : decode 0b00001001 = .ok (.tenc 0) ∧ decode 0b00101001 = .ok (.tenc 2) := by decide
theorem test_decode_henc : decode 0b00001010 = .ok (.henc 0) ∧ decode 0b00011010 = .ok (.henc 1) := by decide
theorem test_decode_thpk : decode 0b00001011 = .ok .thpk := by decide
theorem test_decode_ofsenc : decode 0b00001100 = .ok .ofsenc := by decide
theorem test_decode_ofsdec : decode 0b00001101 = .ok (.ofsdec 0) ∧ decode 0b00101101 = .ok (.ofsdec 2) := by
  decide

/-- V6.1: the ILLEGAL rows, with the first test of R59 that applies. -/
theorem test_decode_illegal :
    decode 0x00 = .error (.opReserved 0x0) ∧ decode 0x0E = .error (.opReserved 0xE) ∧
    decode 0x0F = .error (.opReserved 0xF) ∧ decode 0x11 = .error (.selIllegal 0x1 1) ∧
    decode 0x1B = .error (.selIllegal 0xB 1) ∧ decode 0x34 = .error (.selIllegal 0x4 3) ∧
    decode 0x3D = .error (.selIllegal 0xD 3) ∧ decode 0x41 = .error (.rsvNonzero 1) ∧
    decode 0xC1 = .error (.rsvNonzero 3) ∧ decode 0xFF = .error (.rsvNonzero 3) := by decide

theorem test_decode_table_word :
    decodeTableWord 8 0x2D = some (.ofsdec 2) ∧ decodeTableWord 8 0x34 = none := by decide

/-- 25 of the 256 CTRL values are legal (R59). -/
theorem test_decode_counts :
    ((List.range 256).filter (fun n => (decode (BitVec.ofNat 8 n)).toOption.isSome)).length = 25 := by
  decide +kernel

/-! ### CRC and frames -/

/-- V1.1 and rows of V1.2. -/
theorem test_crc8_vectors :
    crc8 0xBE 0xEF = 0x92 ∧ crc8 0x00 0x01 = 0xB0 ∧ crc8 0x80 0x00 = 0xA2 ∧ crc8 0x55 0x55 = 0x9A := by
  decide +kernel

/-- V1.4. -/
theorem test_crcgen : look (fun t => (t.regs.crc, t.regs.status))
    (exec .crcgen (after (fun f => { f with data := .of 0xBEEF }))) = some (.of 0x92, 0x01) := by
  decide +kernel

/-- V1.5 row 5, P8: the bytes from OUT2 on are stale. -/
theorem test_frmc_keeps_stale_bytes : look (fun t => (t.regs.out.toList.map Slot.val, t.regs.outlen))
    (exec .frmc (after (fun f => { f with cmd := .of 0x3041, outlen := 5, out := #v[.of 0x61, .of 0x1D, .of 0x98, .of 0xDB, .of 0x15] }))) =
    some ([0x30, 0x41, 0x98, 0xDB, 0x15], 2) := by decide +kernel

/-- V1.5 row 1: OUT2 to OUT4 stay unwritten. -/
theorem test_frmc_marks : look (fun t => t.regs.out.toList.map Slot.written)
    (exec .frmc (after (fun f => { f with cmd := .of 0x30A2 }))) =
    some [true, true, false, false, false] := by decide +kernel

/-- V1.5 row 2. -/
theorem test_frmcd : look (fun t => (t.regs.out.toList.map Slot.val, t.regs.outlen, t.regs.crc))
    (exec .frmcd (after (fun f => { f with cmd := .of 0x611D, data := .of 0x98DB }))) =
    some ([0x61, 0x1D, 0x98, 0xDB, 0x15], 5, .of 0x15) := by decide +kernel

/-- V1.6 row g: the destination is WORD1, the source group 0. -/
theorem test_chk1_good : look (fun t => (t.regs.word.toList.map Slot.val, t.regs.status))
    (exec (.chk1 1) (after (bytesIn [0xFF, 0x00, 0x00]))) = some ([0, 0xFF00, 0], 0x01) := by
  decide +kernel

/-- V1.6 row d. -/
theorem test_chk1_bad : look (fun t => (t.regs.word.toList, t.regs.status))
    (exec (.chk1 2) (after (bytesIn [0x31, 0x00, 0x33]))) =
    some (RegFile.reset.word.toList, 0x02) := by decide +kernel

/-- V1.7 row 1. -/
theorem test_chk2_good : look (fun t => (t.regs.word.toList.map Slot.val, t.regs.status))
    (exec .chk2 (after (bytesIn [0x66, 0x66, 0x93, 0x99, 0x99, 0xBE]))) =
    some ([0x6666, 0x9999, 0], 0x01) := by decide +kernel

/-- V1.7 row 2: no partial result. -/
theorem test_chk2_second_bad : look (fun t => (t.regs.word.toList, t.regs.status))
    (exec .chk2 (after (bytesIn [0x66, 0x66, 0x93, 0x99, 0x99, 0xBF]))) =
    some (RegFile.reset.word.toList, 0x12) := by decide +kernel

/-- V1.8 row 1. -/
theorem test_chk3_good : look (fun t => t.regs.word.toList.map Slot.val)
    (exec .chk3 (after (bytesIn [0x12, 0x34, 0x37, 0x56, 0x78, 0x7D, 0x9A, 0xBC, 0xE0]))) =
    some [0x1234, 0x5678, 0x9ABC] := by decide +kernel

/-- V1.8 row 3: the lowest bad group. -/
theorem test_chk3_two_bad : look (fun t => t.regs.status)
    (exec .chk3 (after (bytesIn [0x12, 0x34, 0x37, 0x56, 0x78, 0x7C, 0x9A, 0xBC, 0xE1]))) =
    some 0x12 := by decide +kernel

/-! ### Conversions -/

/-- V2.1 row 0x3000 (the low bits show the three roundings). -/
theorem test_tdec : look (fun t => (t.regs.yt, t.regs.status))
    (exec (.tdec 2) (after (fun f => { f with word := f.word.set 2 (.of 0x3000) }))) =
    some (.of 0xC0285FBE5FBE5FC0, 0x01) := by decide +kernel

/-- V2.1 row 0x0001. -/
theorem test_hdec : look (fun t => t.regs.yh)
    (exec (.hdec 1) (after (fun f => { f with word := f.word.set 1 (.of 0x0001) }))) =
    some (.of 0x3F59001900190019) := by decide +kernel

/-- V3.3: XT = 0.0 under both roundings. -/
theorem test_tenc_both_roundings :
    look (fun t => t.regs.word[2].val) (exec (.tenc 2) (after (fun f => { f with xt := .of 0 }))) =
      some 0x41D3 ∧
    look (fun t => t.regs.word[2].val)
      (exec (.tenc 2) { after (fun f => { f with xt := .of 0 }) with encRoundT := .halfAway }) =
      some 0x41D4 := by decide +kernel

/-- V3.3: XT = 131.0 is out of range in lane 0. -/
theorem test_tenc_range : look (fun t => (t.regs.word.toList, t.regs.status))
    (exec (.tenc 0) (after (fun f => { f with xt := .of 0x4060600000000000 }))) =
    some (RegFile.reset.word.toList, 0x04) := by decide +kernel

/-- V3.2 row -0.001: truncated to 0, not refused. -/
theorem test_henc_truncates : look (fun t => (t.regs.word[0], t.regs.status))
    (exec (.henc 0) (after (fun f => { f with xh := .of 0xBF50624DD2F1A9FC }))) =
    some (.of 0x0000, 0x01) := by decide +kernel

/-- V3.3: XH = 101.0 is out of range in lane 1. -/
theorem test_henc_range : look (fun t => t.regs.status)
    (exec (.henc 0) (after (fun f => { f with xh := .of 0x4059400000000000 }))) = some 0x14 := by
  decide +kernel

/-- V5.1 row 1. -/
theorem test_thpk : look (fun t => (t.regs.data, t.regs.status))
    (exec .thpk (after (fun f => { f with xt := .of 0x403E000000000000, xh := .of 0x404E000000000000 }))) =
    some (.of 0x98DB, 0x01) := by decide +kernel

/-- V5.1 row 8: the result depends on `ENC_ROUND_T`. -/
theorem test_thpk_both_roundings :
    ([Rounding.trunc, .halfAway].map (fun r => look (fun t => t.regs.data.val)
      (exec .thpk { after (fun f => { f with xt := .of 0x4045400000000000, xh := .of 0x4049000000000000 })
        with encRoundT := r }))) = [some 0x7EFF, some 0x7F00] := by decide +kernel

/-- V4.4 row 3. -/
theorem test_ofsenc : look (fun t => t.regs.data)
    (exec .ofsenc (after (fun f => { f with xt := .of 0xBFF0000000000000, xh := .of 0x4014000000000000 }))) =
    some (.of 0x9A06) := by decide +kernel

/-- V4.4 row 7: the tie at 127.5 LSB rounds away and fails in lane 1. -/
theorem test_ofsenc_tie : look (fun t => (t.regs.data, t.regs.status))
    (exec .ofsenc (after (fun f => { f with xt := .of 0, xh := .of 0x4038E70000000000 }))) =
    some (.unwritten 16, 0x14) := by decide +kernel

/-- V4.5 row 1. -/
theorem test_ofsdec : look (fun t => (t.regs.yt, t.regs.yh))
    (exec (.ofsdec 0) (after (fun f => { f with word := f.word.set 0 (.of 0x9A06) }))) =
    some (.of 0xBFF0680000000000, .of 0x4014500000000000) := by decide +kernel

/-- V4.5 row 2: -0.0 in both. -/
theorem test_ofsdec_zero : look (fun t => (t.regs.yt.val, t.regs.yh.val))
    (exec (.ofsdec 0) (after (fun f => { f with word := f.word.set 0 (.of 0x0000) }))) =
    some (0x8000000000000000, 0x8000000000000000) := by decide +kernel

/-! ### The host port -/

/-- V6.1: an illegal CTRL value is stored and reads nothing. -/
theorem test_illegal_ctrl : look (fun t => (t.regs.ctrl, t.regs.status, t.unwrittenFault))
    (step (State.reset.withFetchWord 8 0x34)) = some (0x34, 0x06, none) := by decide +kernel

/-- P7: the record of CRCGEN with DATA unwritten holds the state at the fault. -/
theorem test_unwritten_source_is_recorded :
    look (fun t => t.unwrittenFault) (step (State.reset.withFetchWord 8 0x01)) =
      some (some ⟨[.data], { RegFile.reset with ctrl := 0x01 }⟩) := by decide +kernel

/-- V6.2: an unassigned number reads as 0 of width 8. -/
theorem test_read_unassigned :
    look (fun t => t.reads) (step (hostDoes [.read 0x06] State.reset)) = some [.b8 0] := by decide +kernel

/-- V6.2: a write of STATUS is ignored. -/
theorem test_write_status_ignored :
    look (fun t => t.regs) (step (hostDoes [.write 0x01 (.b8 0x55)] State.reset)) = some RegFile.reset := by
  decide +kernel

/-- V6.3 row 3: an unwritten source is recorded although group 0 fails. -/
theorem test_unwritten_with_bad_group : look (fun t => t.unwrittenFault.map UnwrittenRecord.sources)
    (exec .chk3 (after (bytesIn [0x66, 0x66, 0x92, 0x99, 0x99, 0xBE]))) =
    some (some [.inb 6, .inb 7, .inb 8]) := by decide +kernel

/-- R69's MEAS and ALERT as CTRL writes, with the encodings of P1 and P2. -/
theorem test_pseudo_instructions :
    (meas 0x66 0x66 0x93 0x99 0x99 0xBE).drop 5 =
      [.write 0x15 (.b8 0xBE), ctrlWrite 0x05, ctrlWrite 0x07, ctrlWrite 0x18] ∧
    alert 0x611D 0x403E000000000000 0x404E000000000000 =
      [.write 0x02 (.b16 0x611D), .write 0x30 (.b64 0x403E000000000000), .write 0x31 (.b64 0x404E000000000000),
        ctrlWrite 0x0B, ctrlWrite 0x03] := by decide +kernel

/-- P4: the 48-bit ID. -/
theorem test_nist_id : nistIdOf { RegFile.reset with word := #v[.of 0x1234, .of 0x5678, .of 0x9ABC] } =
    0x123456789ABC := by decide +kernel

/-! ### Witnesses: a state and operands that meet each statement's hypotheses -/

/-- Every register written. -/
def fullRegs : RegFile where
  ctrl := 0
  status := 0x01
  cmd := .of 0x611D
  data := .of 0x98DB
  crc := .of 0x15
  outlen := 5
  out := #v[.of 0x61, .of 0x1D, .of 0x98, .of 0xDB, .of 0x15]
  inb := #v[.of 0x12, .of 0x34, .of 0x37, .of 0x56, .of 0x78, .of 0x7D, .of 0x9A, .of 0xBC, .of 0xE0]
  word := #v[.of 0x1234, .of 0x5678, .of 0x9ABC]
  xt := .of 0x4039000000000000
  xh := .of 0x404E000000000000
  yt := .of 0x4039000000000000
  yh := .of 0x404E000000000000

/-- A machine with every register written. -/
def full : State := { State.reset with regs := fullRegs }

/-- For `PerformsAs` in every rule statement: a machine that has a source unwritten, for each legal
CTRL value, and one that has none. -/
theorem witness_rules_sources :
    ∀ p ∈ opcodeMap,
      State.reset.unwrittenFault = none ∧ unwrittenOf State.reset (sourcesOf p.1) ≠ [] ∧
      full.unwrittenFault = none ∧ unwrittenOf full (sourcesOf p.1) = [] := by decide +kernel

theorem witness_ctrl_write (v : Byte) :
    (hostDoes [.write 0x00 (.b8 v)] full).pending = .write 0x00 (.b8 v) :: [] := rfl

/-- For `IllegalBut` in every rule statement: an illegal value of each OP. -/
theorem witness_illegal_forms :
    ∀ p ∈ [(0x1#4, 0x11#8, [0x01#8]), (0x2, 0x42, [0x02]), (0x3, 0x33, [0x03]), (0x4, 0x34, [0x04, 0x14, 0x24]),
        (0x5, 0x15, [0x05]), (0x6, 0x16, [0x06]), (0x7, 0x37, [0x07, 0x17, 0x27]),
        (0x8, 0x38, [0x08, 0x18, 0x28])] ++
      [(0x9, 0xC9, [0x09, 0x19, 0x29]), (0xA, 0x3A, [0x0A, 0x1A, 0x2A]), (0xB, 0x1B, [0x0B]),
        (0xC, 0x8C, [0x0C]), (0xD, 0x3D, [0x0D, 0x1D, 0x2D])],
      p.2.1.extractLsb' 0 4 = p.1 ∧ p.2.1 ∉ p.2.2 := by decide +kernel

theorem witness_ResetInputRestoresTheResetRegisters :
    (hostDoes [.reset] full).pending = .reset :: [] := rfl

theorem witness_WithoutAHostAccessNothingChanges : full.pending = [] := rfl

theorem witness_StepRunsTheDecodedOperation :
    (hostDoes [.write 0x00 (.b8 0x24)] full).pending = .write 0x00 (.b8 0x24) :: [] ∧
    decode 0x24 = .ok (.chk1 2) ∧ decodeTableWord 8 0x0D = some (.ofsdec 0) := by decide +kernel

/-- 0x0D, the number above OUT4, is unassigned. -/
theorem unassigned_0D : ∀ r, (0x0D : Byte) ≠ numberOfReg r := by
  intro r
  cases r with
  | out k => revert k; decide
  | inb k => revert k; decide
  | word k => revert k; decide
  | _ => decide

theorem witness_HostReadReturnsTheRegisterAndChangesNone :
    (hostDoes [.read 0x0C] full).pending = .read (numberOfReg (.out 4)) :: [] ∧
    (hostDoes [.read 0x0D] full).pending = .read 0x0D :: [] ∧ ∀ r, (0x0D : Byte) ≠ numberOfReg r :=
  ⟨by decide, by decide, unassigned_0D⟩

theorem witness_HostWriteObeysTheAccessRights :
    ((hostDoes [.write 0x0C (.b8 1)] full).pending = .write (numberOfReg (.out 4)) (.b8 1) :: [] ∧
      (RegValue.b8 1).width = (regValue full.regs (.out 4)).width) ∧
    ((hostDoes [.write 0x22 (.b16 1)] full).pending = .write (numberOfReg (.word 2)) (.b16 1) :: [] ∧
      (RegValue.b16 1).width = (regValue full.regs (.word 2)).width) ∧
    ((hostDoes [.write 0x0D (.b8 1)] full).pending = .write 0x0D (.b8 1) :: [] ∧
      ∀ r, (0x0D : Byte) ≠ numberOfReg r) ∧
    ((hostDoes [.write 0x18 (.b8 1), .read 0x18] full).pending =
        .write (numberOfReg (.inb 8)) (.b8 1) :: .read (numberOfReg (.inb 8)) :: [] ∧
      (RegValue.b8 1).width = (regValue full.regs (.inb 8)).width) ∧
    (hostDoes [.write 0x00 (.b8 0xFF), .read 0x00] full).pending =
      .write (numberOfReg .ctrl) (.b8 0xFF) :: .read (numberOfReg .ctrl) :: [] ∧
    ((hostDoes [.read 0x0D] full).pending = .read 0x0D :: [] ∧ ∀ r, (0x0D : Byte) ≠ numberOfReg r) ∧
    ((hostDoes [.read 0x33] full).pending = .read (numberOfReg .yh) :: [] ∧ isWritten full.regs .yh = true) :=
  ⟨by decide, by decide, ⟨by decide, unassigned_0D⟩, by decide, by decide, ⟨by decide, unassigned_0D⟩,
    by decide⟩

theorem witness_HostWriteOfAnotherWidthIsRefused :
    (hostDoes [.write 0x30 (.b16 1)] full).pending = .write (numberOfReg .xt) (.b16 1) :: [] ∧
    (RegValue.b16 1).width ≠ (regValue full.regs .xt).width := by decide

/-- One value for each rejecting clause, in the order of R59. -/
theorem witness_DecodeIsTheOpcodeMap :
    (0x40 : Byte).extractLsb' 6 2 ≠ 0 ∧
    ((0x3E : Byte).extractLsb' 6 2 = 0 ∧ (0x3E : Byte).extractLsb' 0 4 ∈ [0x0#4, 0xE#4, 0xF#4]) ∧
    ((0x3D : Byte).extractLsb' 6 2 = 0 ∧ (0x3D : Byte).extractLsb' 4 2 = 3) ∧
    ((0x1C : Byte).extractLsb' 6 2 = 0 ∧ (0x1C : Byte).extractLsb' 4 2 ≠ 0) := by decide

theorem witness_IllegalCtrlValueRaisesIllegalOp :
    (hostDoes [.write 0x00 (.b8 0xC1)] full).pending = .write 0x00 (.b8 0xC1) :: [] ∧
    (0xC1 : Byte).extractLsb' 6 2 ≠ 0 ∧ (0x00 : Byte).extractLsb' 0 4 ∈ [0x0#4, 0xE#4, 0xF#4] ∧
    (0x34 : Byte).extractLsb' 4 2 = 3 ∧ (0x11 : Byte).extractLsb' 4 2 ≠ 0 := by decide

/-- The group 30 00 33 is valid; one flipped bit, and the burst 0xFF at its lowest and highest place. -/
theorem witness_SmallErrorsNeverPassTheGroupCheck :
    groupValid 0x300033 ∧ (1 : BitVec 24) ≠ 0 ∧
    (List.range 24).countP (fun i => (1 : BitVec 24).getLsbD i) ≤ 3 ∧
    (0xFF0000 : BitVec 24) = ((0xFF : Byte).zeroExtend 24) <<< (16 : Fin 17).val ∧
    (0x0000FF : BitVec 24) = ((0xFF : Byte).zeroExtend 24) <<< (0 : Fin 17).val :=
  ⟨by unfold groupValid; decide +kernel, by decide, by decide, by decide, by decide⟩

/-- For g = 0: group 0 of CHK1 is bad; for g = 1: group 1 of CHK2 is bad and group 0 good; for g = 2:
group 2 of CHK3. -/
theorem witness_AnyBadGroupInvalidatesTheWholeCheck :
    groupOk (bytesIn [0x30, 0x00, 0x32] RegFile.reset) 0 = false ∧
    (groupOk (bytesIn [0x66, 0x66, 0x93, 0x99, 0x99, 0xBF] RegFile.reset) 1 = false ∧
      groupOk (bytesIn [0x66, 0x66, 0x93, 0x99, 0x99, 0xBF] RegFile.reset) 0 = true) ∧
    (groupOk (bytesIn [0x12, 0x34, 0x37, 0x56, 0x78, 0x7D, 0x9A, 0xBC, 0xE1] RegFile.reset) 2 = false ∧
      groupOk (bytesIn [0x12, 0x34, 0x37, 0x56, 0x78, 0x7D, 0x9A, 0xBC, 0xE1] RegFile.reset) 1 = true ∧
      groupOk (bytesIn [0x12, 0x34, 0x37, 0x56, 0x78, 0x7D, 0x9A, 0xBC, 0xE1] RegFile.reset) 0 = true) := by
  decide +kernel

theorem witness_FramedDataPassesTheGroupCheck :
    ∃ s t u : State, exec .frmcd s = .next t ∧ u.regs.inb[0].val = t.regs.out[2].val ∧
      u.regs.inb[1].val = t.regs.out[3].val ∧ u.regs.inb[2].val = t.regs.out[4].val :=
  ⟨full, _, after (bytesIn [0x98, 0xDB, 0x15]), rfl, by decide +kernel, by decide +kernel, by decide +kernel⟩

/-- Two finite values, the divisor not zero; the least subnormal and the largest finite value. -/
theorem witness_ArithmeticRoundsToNearestEven :
    isFinite 0x0000000000000001 = true ∧ isFinite 0x7FEFFFFFFFFFFFFF = true ∧
    f64Mag 0x0000000000000001 ≠ 0 := by decide +kernel

theorem witness_ArithmeticOnSpecialValues :
    isNaN 0x7FF8000000000000 = true ∧ isInf 0xFFF0000000000000 = true ∧ isInf 0x7FF0000000000000 = true ∧
    isFinite 0x8000000000000000 = true ∧ f64Mag 0x8000000000000000 = 0 ∧
    isFinite 0x3FF0000000000000 = true ∧ f64Mag 0x3FF0000000000000 ≠ 0 := by decide +kernel

/-- -0.5 and 2.5 are finite, of either sign. -/
theorem witness_IntegerRoundingsFollowTheirRules :
    isFinite 0xBFE0000000000000 = true ∧ f64Sign 0xBFE0000000000000 = true ∧
    isFinite 0x4004000000000000 = true ∧ f64Sign 0x4004000000000000 = false := by decide +kernel

theorem witness_DecodeMapsAreStrictlyIncreasing :
    (0xFFFE : Word16).toNat < (0xFFFF : Word16).toNat := by decide

/-- -45.0 and 0.0 (a finite code each), NaN and infinity. -/
theorem witness_EncodersAcceptExactlyTheirRange :
    (isNaN 0xC046800000000000 = false ∧ isFinite (qOfTemp 0xC046800000000000) = true) ∧
    (isNaN 0x7FF8000000000000 = true ∧ isInf (qOfTemp 0x7FF0000000000000) = true) ∧
    (isNaN 0x0000000000000000 = false ∧ isFinite (qOfHum 0x0000000000000000) = true) ∧
    isInf (qOfHum 0xFFF0000000000000) = true := by decide +kernel

/-- The largest magnitude and the least are accepted. -/
theorem witness_OffsetRoundTripIsWithinHalfAnLsb :
    offEnc 0x4038CE0000000000 lsbH = some 0xFF ∧ offEnc 0x8000000000000000 lsbT = some 0x80 := by
  decide +kernel

theorem witness_OperationsWriteOnlyTheirListedRegisters :
    ∃ (i : Instr) (s t : State), exec i s = .next t := ⟨.crcgen, full, _, rfl⟩

theorem witness_AFailedOperationWritesOnlyStatus :
    ∃ (s t : State), exec (.chk1 0) s = .next t ∧ t.regs.status = 0x02 :=
  ⟨after (bytesIn [0x30, 0x00, 0x32]), _, rfl, by decide +kernel⟩

theorem witness_UnwrittenSourcesAreRecorded :
    ∃ (s t : State), exec .crcgen s = .next t ∧ s.regs.data.written = false :=
  ⟨State.reset, _, rfl, by decide⟩

/-- A record is held and a reset is taken. -/
def recorded : State := { full with unwrittenFault := some ⟨[.data], RegFile.reset⟩, pending := [.reset] }

theorem witness_TheFaultRecordIsNeverCleared :
    ∃ t, recorded.unwrittenFault = some ⟨[.data], RegFile.reset⟩ ∧ step recorded = .next t := ⟨_, rfl, rfl⟩

/-- A host read of DATA and a CTRL write of CRCGEN read an unwritten register after reset. -/
theorem witness_ReadsUnwritten :
    ReadsUnwritten (hostDoes [.read 0x03] State.reset) ⟨[.data], RegFile.reset⟩ ∧
    ReadsUnwritten (hostDoes [.write 0x00 (.b8 0x01)] State.reset) ⟨[.data], { RegFile.reset with ctrl := 0x01 }⟩ :=
  ⟨.inl ⟨.data, [], rfl, rfl, rfl⟩, .inr ⟨0x01, .crcgen, [], rfl, by decide, by decide, rfl⟩⟩

theorem witness_TheStrictModelStopsAtTheFirstUnwrittenRead :
    ((hostDoes [.reset] full).unwrittenFault = none ∧ ∀ r, ¬ ReadsUnwritten (hostDoes [.reset] full) r) ∧
    (∃ r, recorded.unwrittenFault = some r) ∧
    (∃ s t r, s.unwrittenFault = none ∧ step s = .next t ∧ t.unwrittenFault = some r) :=
  ⟨⟨rfl, by rintro _ (⟨_, _, h, -⟩ | ⟨_, _, _, h, -⟩) <;> cases h⟩, ⟨_, rfl⟩,
    ⟨hostDoes [.read 0x03] State.reset, _, _, rfl, rfl, rfl⟩⟩

theorem witness_WrittenRegistersStayWrittenUntilReset :
    ∃ t, step (hostDoes [.write 0x00 (.b8 0x01)] full) = .next t ∧
      (hostDoes [.write 0x00 (.b8 0x01)] full).pending.head? ≠ some .reset ∧
      isWritten (hostDoes [.write 0x00 (.b8 0x01)] full).regs (.out 4) = true := ⟨_, rfl, by decide, by decide⟩

/-- DATA is written, CMD is not and holds other bits in the two machines; CRCGEN reads DATA alone. -/
theorem witness_UnwrittenBitsDoNotMatterInACleanStep :
    ∃ s s' t : State, s ≠ s' ∧ AgreeState s s' ∧ step s = .next t ∧ t.unwrittenFault = none := by
  refine ⟨hostDoes [.write 0x00 (.b8 0x01)] (after (fun f => { f with data := .of 0xBEEF })),
    hostDoes [.write 0x00 (.b8 0x01)] (after (fun f => { f with data := .of 0xBEEF, cmd := ⟨0x5555, false⟩ })),
    _, by decide, ⟨?_, rfl, rfl, rfl, rfl⟩, rfl, by decide +kernel⟩
  intro r
  cases r <;> first | exact ⟨rfl, fun _ => rfl⟩ | exact ⟨rfl, fun h => absurd h (by decide)⟩

theorem witness_AStepTakesOneAccessInOrder :
    (∃ t, step (hostDoes [.read 0x01, .reset] full) = .next t) ∧
    (hostDoes [.read 0x01, .reset] full).pending = .read 0x01 :: [.reset] ∧
    (∃ t, step (hostDoes [.reset] full) = .next t) ∧
    ∀ n rest, (hostDoes [.reset] full).pending ≠ .read n :: rest :=
  ⟨⟨_, rfl⟩, rfl, ⟨_, rfl⟩, by rintro _ _ h; cases h⟩

/-- A machine that holds a 5-byte frame, written outputs and a fault record meets `Inv`, and steps. -/
theorem witness_EveryStepKeepsTheMachineInvariant : ∃ t, Inv recorded ∧ step recorded = .next t := by
  refine ⟨_, ⟨by decide, by decide, by decide, by decide +kernel, by decide +kernel, by decide +kernel, ?_⟩, rfl⟩
  rintro r h
  cases h
  exact ⟨by decide, by decide⟩

end Sys2Proof.Tests
end

section
/-!
SUPPORT. `roundMag` is IEEE 754's rounding to nearest, ties to even. A magnitude pattern is a significand
plus its exponent field, so consecutive patterns hold consecutive values; an exact value lies between two
of them, and the rounding takes the nearer one.
-/

namespace Sys2Proof.Machine

open Sys2Proof.Claims

/-! ### The values of the magnitude patterns -/

/-- `m` units of `2 ^ e`, as a pattern; a carry `m = 2 ^ 53` belongs to the next exponent. -/
theorem magUnits_pattern {e m : Nat} (hm : m ≤ 2 ^ 53) (hnorm : e = 0 ∨ 2 ^ 52 ≤ m) :
    magUnits (e * 2 ^ 52 + m) = m * 2 ^ e := by
  unfold magUnits
  obtain hsub | ⟨hlo, hhi⟩ | rfl : m < 2 ^ 52 ∨ (2 ^ 52 ≤ m ∧ m < 2 ^ 53) ∨ m = 2 ^ 53 := by omega
  · obtain rfl : e = 0 := by omega
    rw [Nat.zero_mul, Nat.zero_add, Nat.div_eq_of_lt hsub, Nat.mod_eq_of_lt hsub, if_pos rfl,
      Nat.pow_zero, Nat.mul_one]
  · have hdiv : (e * 2 ^ 52 + m) / 2 ^ 52 = e + 1 := by omega
    have hmod : 2 ^ 52 + (e * 2 ^ 52 + m) % 2 ^ 52 = m := by omega
    simp only [hdiv, hmod, Nat.succ_ne_zero, if_false, Nat.add_sub_cancel]
  · have hdiv : (e * 2 ^ 52 + 2 ^ 53) / 2 ^ 52 = e + 2 := by omega
    have hmod : (e * 2 ^ 52 + 2 ^ 53) % 2 ^ 52 = 0 := by omega
    have hcarry : 2 ^ 53 = 2 ^ 52 * 2 := by norm_num
    rw [hdiv, hmod, if_neg (Nat.succ_ne_zero _), Nat.add_zero, Nat.add_succ_sub_one, hcarry,
      Nat.mul_assoc, ← Nat.pow_succ']

theorem exists_pattern (p : Nat) :
    ∃ e m, m < 2 ^ 53 ∧ (e = 0 ∨ 2 ^ 52 ≤ m) ∧ p = e * 2 ^ 52 + m :=
  ⟨p / 2 ^ 52 - 1, p - (p / 2 ^ 52 - 1) * 2 ^ 52, by omega, by omega, by omega⟩

theorem magUnits_strictMono : StrictMono magUnits := by
  refine strictMono_nat_of_lt_succ fun p => ?_
  obtain ⟨e, m, hm, hnorm, rfl⟩ := exists_pattern p
  rw [Nat.add_assoc, magUnits_pattern hm.le hnorm, magUnits_pattern (by omega) (by omega)]
  exact Nat.mul_lt_mul_of_pos_right (Nat.lt_succ_self m) (Nat.two_pow_pos e)

/-- Every value with a significand of at most 53 bits has a pattern. -/
theorem exists_magUnits_eq (e : Nat) {m : Nat} (hm : m < 2 ^ 53) : ∃ p, magUnits p = m * 2 ^ e := by
  induction e generalizing m with
  | zero => exact ⟨0 * 2 ^ 52 + m, magUnits_pattern hm.le (.inl rfl)⟩
  | succ e ih =>
    by_cases hnorm : 2 ^ 52 ≤ m
    · exact ⟨_, magUnits_pattern hm.le (.inr hnorm)⟩
    · obtain ⟨p, hp⟩ := ih (m := m * 2) (by omega)
      exact ⟨p, by rw [hp, Nat.mul_assoc, ← Nat.pow_succ']⟩

theorem magUnits_infMag : magUnits infMag = 2 ^ 54 * 2 ^ 2044 := by
  have h : infMag = 2045 * 2 ^ 52 + 2 ^ 53 := by decide
  have hm : 2 ^ 54 = 2 ^ 53 * 2 := by norm_num
  rw [h, magUnits_pattern le_rfl (by omega), hm, Nat.mul_assoc, ← Nat.pow_succ']

/-- The largest finite magnitude. -/
theorem magUnits_infMag_pred : magUnits (infMag - 1) = (2 ^ 54 - 2) * 2 ^ 2044 := by
  have h : infMag - 1 = 2045 * 2 ^ 52 + (2 ^ 53 - 1) := by decide
  have hm : 2 ^ 54 - 2 = (2 ^ 53 - 1) * 2 := by norm_num
  rw [h, magUnits_pattern (by omega) (by omega), hm, Nat.mul_assoc, ← Nat.pow_succ']

/-! ### The rounding picks between two neighbours -/

/-- The integer part of the significand before rounding has 53 bits, or fewer where the exponent is 0. -/
theorem roundExp_spec (q : Nat) :
    q / 2 ^ roundExp q < 2 ^ 53 ∧ (roundExp q = 0 ∨ 2 ^ 52 ≤ q / 2 ^ roundExp q) := by
  unfold roundExp
  split
  case isTrue h => exact ⟨by simpa using h, .inl rfl⟩
  case isFalse h =>
    have hq : q ≠ 0 := by omega
    have hlog : 52 ≤ Nat.log2 q := (Nat.le_log2 hq).2 (by omega)
    have hsum : 52 + (Nat.log2 q - 52) = Nat.log2 q := by omega
    refine ⟨?_, .inr ?_⟩
    · rw [Nat.div_lt_iff_lt_mul (Nat.two_pow_pos _), ← Nat.pow_add]
      exact (Nat.log2_lt hq).1 (by omega)
    · rw [Nat.le_div_iff_mul_le (Nat.two_pow_pos _), ← Nat.pow_add, hsum]
      exact Nat.log2_self_le hq

/-- The choice between the patterns `lo` and `lo + 1` for the value `n / d`. -/
def nearerPattern (n d lo : Nat) : Nat :=
  if magUnits lo * d + magUnits (lo + 1) * d < 2 * n ∨
      (magUnits lo * d + magUnits (lo + 1) * d = 2 * n ∧ lo % 2 = 1) then lo + 1 else lo

/-- `roundMag` brackets the value by two consecutive patterns and takes the nearer, or infinity. -/
theorem roundMag_bracket (n : Nat) {d : Nat} (hd : 0 < d) :
    ∃ lo, magUnits lo * d ≤ n ∧ n < magUnits (lo + 1) * d ∧
      roundMag n d = min (nearerPattern n d lo) infMag := by
  obtain ⟨hlt, hnorm⟩ := roundExp_spec (n / d)
  rw [Nat.div_div_eq_div_mul] at hlt hnorm
  unfold roundMag roundHalfEven
  dsimp only
  generalize roundExp (n / d) = e at *
  have hD : 0 < d * 2 ^ e := Nat.mul_pos hd (Nat.two_pow_pos e)
  have hr := Nat.mod_lt n hD
  have hn := Nat.div_add_mod' n (d * 2 ^ e)
  generalize n / (d * 2 ^ e) = m, n % (d * 2 ^ e) = r at *
  have hlo : magUnits (e * 2 ^ 52 + m) * d = m * (d * 2 ^ e) := by
    rw [magUnits_pattern hlt.le hnorm]; ring
  have hhi : magUnits (e * 2 ^ 52 + m + 1) * d = m * (d * 2 ^ e) + d * 2 ^ e := by
    rw [Nat.add_assoc, magUnits_pattern (by omega) (by omega)]; ring
  refine ⟨e * 2 ^ 52 + m, by omega, by omega, ?_⟩
  unfold nearerPattern
  rw [hlo, hhi]
  congr 1
  generalize m * (d * 2 ^ e) = a, d * 2 ^ e = D at *
  split <;> split <;> omega

theorem nearerPattern_eq_or (n d lo : Nat) : nearerPattern n d lo = lo ∨ nearerPattern n d lo = lo + 1 := by
  unfold nearerPattern
  split <;> simp

/-- No pattern is nearer than the chosen neighbour, and in a tie the chosen one is even. -/
theorem nearerPattern_nearest {n d lo : Nat} (hd : 0 < d) (hlo : magUnits lo * d ≤ n)
    (hhi : n < magUnits (lo + 1) * d) (y : Nat) :
    Claims.dist (magUnits (nearerPattern n d lo) * d) n ≤ Claims.dist (magUnits y * d) n ∧
      (y ≠ nearerPattern n d lo →
        Claims.dist (magUnits (nearerPattern n d lo) * d) n = Claims.dist (magUnits y * d) n →
        nearerPattern n d lo % 2 = 0) := by
  have hmono : StrictMono fun p => magUnits p * d :=
    fun p q h => Nat.mul_lt_mul_of_pos_right (magUnits_strictMono h) hd
  have hy : y = lo ∨ magUnits y * d < magUnits lo * d ∨ y = lo + 1 ∨
      magUnits (lo + 1) * d < magUnits y * d := by
    obtain h | h | h | h : y = lo ∨ y < lo ∨ y = lo + 1 ∨ lo + 1 < y := by omega
    · exact .inl h
    · exact .inr (.inl (hmono h))
    · exact .inr (.inr (.inl h))
    · exact .inr (.inr (.inr (hmono h)))
  unfold nearerPattern Claims.dist
  split
  · obtain rfl | h | rfl | h := hy <;> omega
  · obtain rfl | h | rfl | h := hy <;> omega

/-- The chosen neighbour is finite exactly below the midpoint between the largest finite value and the
next power of two. -/
theorem nearerPattern_lt_infMag_iff {n d lo : Nat} (hlo : magUnits lo * d ≤ n)
    (hhi : n < magUnits (lo + 1) * d) :
    nearerPattern n d lo < infMag ↔ n < (2 ^ 54 - 1) * 2 ^ 2044 * d := by
  have hfin : magUnits (infMag - 1) * d = (2 ^ 54 - 2) * (2 ^ 2044 * d) := by
    rw [magUnits_infMag_pred, Nat.mul_assoc]
  have hinf : magUnits infMag * d = 2 ^ 54 * (2 ^ 2044 * d) := by rw [magUnits_infMag, Nat.mul_assoc]
  have hsucc : infMag - 1 + 1 = infMag := by decide
  have hodd : (infMag - 1) % 2 = 1 := by decide
  rw [Nat.mul_assoc]
  obtain h | rfl | h : lo + 1 ≤ infMag - 1 ∨ lo = infMag - 1 ∨ infMag ≤ lo := by omega
  · have hle : magUnits (lo + 1) * d ≤ magUnits (infMag - 1) * d :=
      Nat.mul_le_mul_right d (magUnits_strictMono.monotone h)
    have := nearerPattern_eq_or n d lo
    generalize 2 ^ 2044 * d = D at *
    omega
  · unfold nearerPattern
    rw [hsucc] at hhi ⊢
    rw [hfin] at hlo ⊢
    rw [hinf] at hhi ⊢
    generalize 2 ^ 2044 * d = D at *
    split <;> omega
  · have hle : magUnits infMag * d ≤ magUnits lo * d :=
      Nat.mul_le_mul_right d (magUnits_strictMono.monotone h)
    have := nearerPattern_eq_or n d lo
    generalize 2 ^ 2044 * d = D at *
    omega

/-- R8, R14: `roundMag` rounds to nearest, ties to even. -/
theorem nearestEven_roundMag (n : Nat) {d : Nat} (hd : 0 < d) : NearestEven n d (roundMag n d) := by
  obtain ⟨lo, hlo, hhi, hround⟩ := roundMag_bracket n hd
  have hfin := nearerPattern_lt_infMag_iff hlo hhi
  rw [hround]
  by_cases h : nearerPattern n d lo < infMag
  · rw [Nat.min_eq_left h.le]
    exact .inl ⟨h, hfin.1 h, fun y _ => nearerPattern_nearest hd hlo hhi y⟩
  · rw [Nat.min_eq_right (Nat.le_of_not_lt h)]
    exact .inr ⟨rfl, Nat.le_of_not_lt (mt hfin.2 h)⟩

/-- A value that a finite pattern holds rounds to that pattern. -/
theorem roundMag_magUnits {p d : Nat} (hp : p < infMag) (hd : 0 < d) :
    roundMag (magUnits p * d) d = p := by
  obtain ⟨lo, hlo, hhi, hround⟩ := roundMag_bracket (magUnits p * d) hd
  have h1 : lo ≤ p := magUnits_strictMono.le_iff_le.1 (Nat.le_of_mul_le_mul_right hlo hd)
  have h2 : p < lo + 1 := magUnits_strictMono.lt_iff_lt.1 (Nat.lt_of_mul_lt_mul_right hhi)
  obtain rfl : lo = p := by omega
  have hkeep : nearerPattern (magUnits lo * d) d lo = lo := if_neg (by omega)
  rw [hround, hkeep, Nat.min_eq_left hp.le]

theorem roundMag_zero {d : Nat} (hd : 0 < d) : roundMag 0 d = 0 := by
  simpa [magUnits_zero] using roundMag_magUnits (p := 0) (by decide) hd

end Sys2Proof.Machine
end

section
/-!
The arithmetic of 00_scope.md: the four operations (R8, R14) and the integer roundings (R15).
-/

namespace Sys2Proof.Machine

open Sys2Proof.Claims

/-! ### Signs, magnitudes and negation -/

theorem unitsPerOne_pos : 0 < unitsPerOne := by
  unfold unitsPerOne
  positivity

@[simp] theorem f64Mag_fneg (a : F64) : f64Mag (fneg a) = f64Mag a := by simp [f64Mag]

@[simp] theorem isFinite_fneg (a : F64) : isFinite (fneg a) = isFinite a := by simp [isFinite]

@[simp] theorem f64Units_fneg (a : F64) : f64Units (fneg a) = -f64Units a := by
  unfold f64Units
  cases h : f64Sign a <;> simp [h]

/-- A pattern is its sign bit and its 63 magnitude bits. -/
theorem f64_ext {a b : F64} (hsign : f64Sign a = f64Sign b) (hmag : f64MagBits a = f64MagBits b) :
    a = b := by
  have hmsb : a.msb = b.msb := by
    rw [BitVec.msb_eq_getLsbD_last, BitVec.msb_eq_getLsbD_last]
    exact hsign
  rw [BitVec.msb_eq_decide, BitVec.msb_eq_decide, decide_eq_decide] at hmsb
  unfold f64MagBits at hmag
  apply BitVec.eq_of_toNat_eq
  omega

/-! ### The four operations on finite operands -/

section Finite
variable {a b : F64} (ha : isFinite a = true) (hb : isFinite b = true)
include ha hb

/-- One equation for the sum: where it is exactly zero the rounding gives 0 too. -/
theorem fadd_of_isFinite :
    fadd a b = f64Pack (if f64Units a + f64Units b = 0 then f64Sign a && f64Sign b
      else decide (f64Units a + f64Units b < 0)) (roundMag (f64Units a + f64Units b).natAbs 1) := by
  unfold fadd faddFinite
  by_cases h : f64Units a + f64Units b = 0
  · simp [h, roundMag_zero, isNaN_of_isFinite, isInf_of_isFinite, ha, hb]
  · simp [h, isNaN_of_isFinite, isInf_of_isFinite, ha, hb]

theorem fmul_of_isFinite :
    fmul a b = f64Pack (f64Sign a != f64Sign b) (roundMag (f64Mag a * f64Mag b) unitsPerOne) := by
  simp [fmul, isNaN_of_isFinite, isInf_of_isFinite, ha, hb]

theorem fdiv_of_isFinite (h0 : f64Mag b ≠ 0) :
    fdiv a b = f64Pack (f64Sign a != f64Sign b) (roundMag (f64Mag a * unitsPerOne) (f64Mag b)) := by
  simp [fdiv, isNaN_of_isFinite, isInf_of_isFinite, ha, hb, mt f64Mag_eq_zero.2 h0]

/-- A nonzero value over zero is infinite. -/
theorem fdiv_of_zero (h0 : f64Mag b = 0) :
    fdiv a b = if f64Mag a = 0 then f64NaN else f64Pack (f64Sign a != f64Sign b) infMag := by
  simp [fdiv, isNaN_of_isFinite, isInf_of_isFinite, ha, hb, f64Mag_eq_zero.1 h0, f64Mag_eq_zero]

theorem fadd_nearestEven :
    NearestEven (f64Units a + f64Units b).natAbs 1 (f64MagBits (fadd a b)) ∧
      f64Sign (fadd a b) = (if f64Units a + f64Units b = 0 then f64Sign a && f64Sign b
        else decide (f64Units a + f64Units b < 0)) := by
  rw [fadd_of_isFinite ha hb, f64MagBits_pack_roundMag, f64Sign_pack]
  exact ⟨nearestEven_roundMag _ Nat.one_pos, rfl⟩

/-- The difference is the sum with `b` negated. -/
theorem fsub_nearestEven :
    NearestEven (f64Units a - f64Units b).natAbs 1 (f64MagBits (fsub a b)) ∧
      f64Sign (fsub a b) = (if f64Units a - f64Units b = 0 then f64Sign a && !f64Sign b
        else decide (f64Units a - f64Units b < 0)) := by
  have h := fadd_nearestEven ha (b := fneg b) (by simpa using hb)
  rwa [f64Units_fneg, f64Sign_fneg, ← Int.sub_eq_add_neg] at h

theorem fmul_nearestEven :
    NearestEven (f64Mag a * f64Mag b) (2 ^ 1074) (f64MagBits (fmul a b)) ∧
      f64Sign (fmul a b) = (f64Sign a != f64Sign b) := by
  rw [fmul_of_isFinite ha hb, f64MagBits_pack_roundMag, f64Sign_pack]
  exact ⟨nearestEven_roundMag _ unitsPerOne_pos, rfl⟩

theorem fdiv_nearestEven (h0 : f64Mag b ≠ 0) :
    NearestEven (f64Mag a * 2 ^ 1074) (f64Mag b) (f64MagBits (fdiv a b)) ∧
      f64Sign (fdiv a b) = (f64Sign a != f64Sign b) := by
  rw [fdiv_of_isFinite ha hb h0, f64MagBits_pack_roundMag, f64Sign_pack]
  exact ⟨nearestEven_roundMag _ (Nat.pos_of_ne_zero h0), rfl⟩

end Finite

/-! ### Integers -/

/-- An integer of at most 53 bits is a finite binary64 value, which `f64OfNat` finds. -/
theorem f64OfNat_exact {n : Nat} (hn : n < 2 ^ 53) :
    isFinite (f64OfNat n) = true ∧ f64Units (f64OfNat n) = (n : Int) * 2 ^ 1074 := by
  obtain ⟨p, hp⟩ := exists_magUnits_eq 1074 hn
  have hfin : p < infMag := by
    rw [← magUnits_strictMono.lt_iff_lt, hp, magUnits_infMag]
    exact Nat.mul_lt_mul'' (by omega) (pow_lt_pow_right₀ Nat.one_lt_two (by decide))
  have hround : roundMag (n * unitsPerOne) 1 = p := by
    rw [unitsPerOne, ← hp]
    simpa only [Nat.mul_one] using roundMag_magUnits hfin Nat.one_pos
  have hmag : f64MagBits (f64OfNat n) = p := by rw [f64OfNat, f64MagBits_pack_roundMag, hround]
  have hsign : f64Sign (f64OfNat n) = false := f64Sign_pack _ _
  refine ⟨by simpa [isFinite, hmag] using hfin, ?_⟩
  rw [f64Units, hsign, f64Mag, hmag, hp, if_neg Bool.false_ne_true]
  rw [Nat.cast_mul, Nat.cast_pow, Nat.cast_ofNat]

/-- Settles O33: each operation is `roundMag` of its exact result, which rounds to nearest even. -/
theorem arithmeticRoundsToNearestEven : Obligations.ArithmeticRoundsToNearestEven :=
  ⟨fun _ _ ha hb => ⟨fadd_nearestEven ha hb, fsub_nearestEven ha hb, fmul_nearestEven ha hb,
    fdiv_nearestEven ha hb⟩, fun _ hn => f64OfNat_exact (by omega)⟩

/-! ### NaN, infinity and zero divisors -/

theorem isNaN_arith_of_isNaN {a b : F64} (h : isNaN a = true ∨ isNaN b = true) :
    isNaN (fadd a b) = true ∧ isNaN (fsub a b) = true ∧ isNaN (fmul a b) = true ∧
      isNaN (fdiv a b) = true := by
  simp [fadd, fsub, fmul, fdiv, h]

@[simp] theorem isFinite_pack_zero (s : Bool) : isFinite (f64Pack s 0) = true := by
  simp [isFinite, infMag]

@[simp] theorem f64Mag_pack_zero (s : Bool) : f64Mag (f64Pack s 0) = 0 := by
  simp [f64Mag, magUnits_zero]

section InfFinite
variable {a b : F64} (ha : isInf a = true) (hb : isFinite b = true)
include ha hb

theorem fadd_inf_finite : fadd a b = a ∧ fadd b a = a := by
  simp [fadd, isNaN_of_isInf ha, isNaN_of_isFinite hb, ha, isInf_of_isFinite hb]

theorem fmul_inf_finite :
    fmul a b = (if f64Mag b = 0 then f64NaN else f64Pack (f64Sign a != f64Sign b) infMag) ∧
    fmul b a = (if f64Mag b = 0 then f64NaN else f64Pack (f64Sign b != f64Sign a) infMag) := by
  simp [fmul, isNaN_of_isInf ha, isNaN_of_isFinite hb, ha, isInf_of_isFinite hb, f64Mag_eq_zero]

theorem fdiv_inf_finite :
    fdiv a b = f64Pack (f64Sign a != f64Sign b) infMag ∧
    fdiv b a = f64Pack (f64Sign b != f64Sign a) 0 := by
  simp [fdiv, isNaN_of_isInf ha, isNaN_of_isFinite hb, ha, isInf_of_isFinite hb]

end InfFinite

section InfInf
variable {a b : F64} (ha : isInf a = true) (hb : isInf b = true)
include ha hb

theorem fadd_inf_inf : fadd a b = if f64Sign a = f64Sign b then a else f64NaN := by
  by_cases h : f64Sign a = f64Sign b <;>
    simp [fadd, isNaN_of_isInf ha, isNaN_of_isInf hb, ha, hb, h]

theorem fmul_inf_inf : fmul a b = f64Pack (f64Sign a != f64Sign b) infMag := by
  have h0 : f64MagBits b ≠ 0 := by
    rw [of_decide_eq_true hb]
    decide
  simp [fmul, isNaN_of_isInf ha, isNaN_of_isInf hb, ha, h0]

theorem fdiv_inf_inf : fdiv a b = f64NaN := by
  simp [fdiv, isNaN_of_isInf ha, isNaN_of_isInf hb, ha, hb]

end InfInf

/-- R14: the only pattern with the sign set that `fge0` accepts is -0.0. -/
theorem fge0_iff (a : F64) :
    fge0 a = true ↔ (isNaN a = false ∧ (f64Sign a = false ∨ a = 0x8000000000000000)) := by
  have hzero : f64Sign (0x8000000000000000 : F64) = true ∧ f64MagBits 0x8000000000000000 = 0 := by
    decide +kernel
  cases hs : f64Sign a with
  | false => simp [fge0, hs]
  | true =>
    have h : f64MagBits a = 0 ↔ a = 0x8000000000000000 :=
      ⟨fun h => f64_ext (hs.trans hzero.1.symm) (h.trans hzero.2.symm), fun h => h ▸ hzero.2⟩
    simp [fge0, hs, h]

/-- Settles O34: one equation per operation and class of operands gives each clause. -/
theorem arithmeticOnSpecialValues : Obligations.ArithmeticOnSpecialValues := by
  refine ⟨fun a b h => isNaN_arith_of_isNaN h, fun a b ha hb => ?_, fun a b ha hb => ?_,
    fun a b ha hb h0 => ?_, fge0_iff⟩
  · obtain ⟨hab, hba⟩ := fadd_inf_finite ha hb
    obtain ⟨hmab, hmba⟩ := fmul_inf_finite ha hb
    obtain ⟨hdab, hdba⟩ := fdiv_inf_finite ha hb
    have hsub : fsub a b = a := (fadd_inf_finite ha (b := fneg b) (by simpa using hb)).1
    have hsub' : fsub b a = fneg a := (fadd_inf_finite (a := fneg a) (by simpa using ha) hb).2
    refine ⟨hab, hba, hsub, hsub', fun h => ?_, fun h => ?_, ?_⟩
    · simp [hmab, hmba, h]
    · simp [hmab, hmba, h]
    · simp [hdab, hdba]
  · have hsub : fsub a b = _ := fadd_inf_inf ha (b := fneg b) (by simpa using hb)
    rw [fadd_inf_inf ha hb, hsub, fmul_inf_inf ha hb, fdiv_inf_inf ha hb]
    refine ⟨fun h => ?_, fun h => ?_, by simp⟩
    · simp [h]
    · simp [h]
  · rw [fdiv_of_zero ha hb h0]
    exact ⟨fun h => by simp [h], fun h => by simp [h]⟩

/-! ### The integer roundings -/

@[simp] theorem natAbs_roundInt (r : Rounding) (q : F64) : (roundInt r q).natAbs = roundAbs r q := by
  unfold roundInt
  split <;> simp

/-- `TRUNC` and `HALF_AWAY` never take the opposite sign. -/
theorem roundInt_sign (r : Rounding) (q : F64) :
    (f64Sign q = true → roundInt r q ≤ 0) ∧ (f64Sign q = false → 0 ≤ roundInt r q) := by
  unfold roundInt
  constructor
  · intro h
    simp [h]
  · intro h
    simp [h]

theorem roundAbs_trunc_floor (q : F64) :
    roundAbs .trunc q * 2 ^ 1074 ≤ f64Mag q ∧ f64Mag q < (roundAbs .trunc q + 1) * 2 ^ 1074 :=
  ⟨Nat.div_mul_le_self _ _, Nat.lt_mul_of_div_lt (Nat.lt_succ_self _) unitsPerOne_pos⟩

/-- The floor of `|q| + 1/2`, both sides doubled. -/
theorem roundAbs_halfAway_floor (q : F64) :
    2 * roundAbs .halfAway q * 2 ^ 1074 ≤ 2 * f64Mag q + 2 ^ 1074 ∧
      2 * f64Mag q + 2 ^ 1074 < 2 * (roundAbs .halfAway q + 1) * 2 ^ 1074 := by
  have hpos : 0 < 2 * unitsPerOne := Nat.mul_pos Nat.two_pos unitsPerOne_pos
  have hle := Nat.div_mul_le_self (2 * f64Mag q + unitsPerOne) (2 * unitsPerOne)
  have hlt := Nat.lt_mul_of_div_lt (Nat.lt_succ_self _) hpos (a := 2 * f64Mag q + unitsPerOne)
  rw [Nat.mul_left_comm, ← Nat.mul_assoc] at hle hlt
  exact ⟨hle, hlt⟩

/-- Settles O35, from the floors of `|q|` and of `|q| + 1/2`. -/
theorem integerRoundingsFollowTheirRules : Obligations.IntegerRoundingsFollowTheirRules := by
  intro q _
  rw [natAbs_roundInt, natAbs_roundInt]
  exact ⟨roundAbs_trunc_floor q, roundAbs_halfAway_floor q, fun r => roundInt_sign r q⟩

end Sys2Proof.Machine
end

section
/-!
SUPPORT. Every operation is one operation frame (R75): its sources are R121's, and what it computes is a
function of the register file. What a successful one may write is said once, by `Writes`.
-/

namespace Sys2Proof.Machine

open Sys2Proof.Claims

/-! ### Operations as one frame -/

/-- The computation of an operation with a SEL operand (R57, R102). -/
def selected (k : BitVec 2) (c : Fin 3 → RegFile → Except OpError RegFile) (f : RegFile) :
    Except OpError RegFile :=
  match wordIndex k with
  | none   => .error .illegalOp
  | some i => c i f

/-- What each operation computes from the registers; `exec_eq_perform` ties it to `exec`. -/
def compute (r : Rounding) : Instr → RegFile → Except OpError RegFile
  | .crcgen,   f => .ok { f with crc := .of (crcOfWord f.data.val) }
  | .frmc,     f => .ok { putCommand f with outlen := 2 }
  | .frmcd,    f => .ok (putFrame f)
  | .chk1 k,   f => selected k (fun i f => checkGroups [0] f (putWord f i (groupWord f 0))) f
  | .chk2,     f => checkGroups [0, 1] f (putWord (putWord f 0 (groupWord f 0)) 1 (groupWord f 1))
  | .chk3,     f => checkGroups [0, 1, 2] f
      (putWord (putWord (putWord f 0 (groupWord f 0)) 1 (groupWord f 1)) 2 (groupWord f 2))
  | .tdec k,   f => selected k (fun i f => .ok { f with yt := .of (decT f.word[i].val) }) f
  | .hdec k,   f => selected k (fun i f => .ok { f with yh := .of (decH f.word[i].val) }) f
  | .tenc k,   f => selected k (fun i f => codeInto 0 i f (encT r f.xt.val)) f
  | .henc k,   f => selected k (fun i f => codeInto 1 i f (encH f.xh.val)) f
  | .thpk,     f => twoLanes (encT r f.xt.val) (encH f.xh.val)
      (fun t h => { f with data := .of (thresholdWord t h) })
  | .ofsenc,   f => twoLanes (offEnc f.xt.val lsbT) (offEnc f.xh.val lsbH)
      (fun lo hi => { f with data := .of (offsetWord hi lo) })
  | .ofsdec k, f => selected k (fun i f => .ok { f with
      yh := .of (offDec (highByte f.word[i].val) lsbH)
      yt := .of (offDec (lowByte f.word[i].val) lsbT) }) f

/-- An operation with a SEL is an operation frame too: an illegal SEL reads nothing and always raises. -/
theorem performSel_eq_perform (k : BitVec 2) (src : Fin 3 → List Reg)
    (c : Fin 3 → RegFile → Except OpError RegFile) (s : State) :
    performSel k (fun i => perform (src i) (c i)) s =
      perform ((wordIndex k).elim [] src) (selected k c) s := by
  cases hk : wordIndex k with
  | some i => simp [performSel, perform, selected, hk]
  | none => simp [performSel, perform, selected, hk, noteReads, recordAfter_nil]

theorem sourcesOf_chk1 (k : BitVec 2) :
    sourcesOf (.chk1 k) = (wordIndex k).elim [] (fun _ => groupSources [0]) := by
  revert k; decide

theorem sourcesOf_tdec (k : BitVec 2) : sourcesOf (.tdec k) = (wordIndex k).elim [] (fun i => [.word i]) := by
  revert k; decide

theorem sourcesOf_hdec (k : BitVec 2) : sourcesOf (.hdec k) = (wordIndex k).elim [] (fun i => [.word i]) :=
  sourcesOf_tdec k

theorem sourcesOf_ofsdec (k : BitVec 2) :
    sourcesOf (.ofsdec k) = (wordIndex k).elim [] (fun i => [.word i]) := sourcesOf_tdec k

theorem sourcesOf_tenc (k : BitVec 2) : sourcesOf (.tenc k) = (wordIndex k).elim [] (fun _ => [.xt]) := by
  revert k; decide

theorem sourcesOf_henc (k : BitVec 2) : sourcesOf (.henc k) = (wordIndex k).elim [] (fun _ => [.xh]) := by
  revert k; decide

/-- R75: every operation is the operation frame over its sources and its computation. -/
theorem exec_eq_perform (i : Instr) (s : State) :
    exec i s = .next (perform (sourcesOf i) (compute s.encRoundT i) s) := by
  cases i with
  | chk1 k => rw [sourcesOf_chk1]; exact congrArg _ (performSel_eq_perform k _ _ s)
  | tdec k => rw [sourcesOf_tdec]; exact congrArg _ (performSel_eq_perform k _ _ s)
  | hdec k => rw [sourcesOf_hdec]; exact congrArg _ (performSel_eq_perform k _ _ s)
  | tenc k => rw [sourcesOf_tenc]; exact congrArg _ (performSel_eq_perform k _ _ s)
  | henc k => rw [sourcesOf_henc]; exact congrArg _ (performSel_eq_perform k _ _ s)
  | ofsdec k => rw [sourcesOf_ofsdec]; exact congrArg _ (performSel_eq_perform k _ _ s)
  | crcgen | frmc | frmcd | chk2 | chk3 | thpk | ofsenc => rfl

/-! ### What an operation can write -/

/-- `Writes i f g`: operation `i` may turn the registers `f` into `g`, its destinations being those of
R21's "engine writes" column. -/
inductive Writes : Instr → RegFile → RegFile → Prop
  | crcgen (f b) : Writes .crcgen f { f with crc := .of b }
  | frmc (f) : Writes .frmc f { putCommand f with outlen := 2 }
  | frmcd (f) : Writes .frmcd f (putFrame f)
  | chk1 {k i} (f w) : wordIndex k = some i → Writes (.chk1 k) f (putWord f i w)
  | chk2 (f v w) : Writes .chk2 f (putWord (putWord f 0 v) 1 w)
  | chk3 (f u v w) : Writes .chk3 f (putWord (putWord (putWord f 0 u) 1 v) 2 w)
  | tdec (k f w) : Writes (.tdec k) f { f with yt := .of (decT w) }
  | hdec (k f w) : Writes (.hdec k) f { f with yh := .of (decH w) }
  | tenc {k i} (f w) : wordIndex k = some i → Writes (.tenc k) f (putWord f i w)
  | henc {k i} (f w) : wordIndex k = some i → Writes (.henc k) f (putWord f i w)
  | thpk (f w) : Writes .thpk f { f with data := .of w }
  | ofsenc (f w) : Writes .ofsenc f { f with data := .of w }
  | ofsdec (k f a b) : Writes (.ofsdec k) f { f with yh := .of (offDec a lsbH), yt := .of (offDec b lsbT) }

/-- R21, R26, R33: no operation writes a register that is the host's alone. -/
theorem Writes.host_registers {i : Instr} {f g : RegFile} (h : Writes i f g) :
    g.ctrl = f.ctrl ∧ g.cmd = f.cmd ∧ g.inb = f.inb ∧ g.xt = f.xt ∧ g.xh = f.xh := by
  cases h <;> exact ⟨rfl, rfl, rfl, rfl, rfl⟩

theorem selected_ok {k : BitVec 2} {c : Fin 3 → RegFile → Except OpError RegFile} {f g : RegFile}
    (h : selected k c f = .ok g) : ∃ i, wordIndex k = some i ∧ c i f = .ok g := by
  cases hk : wordIndex k with
  | none => simp [selected, hk] at h
  | some i => exact ⟨i, rfl, by simpa [selected, hk] using h⟩

/-- The inversion lemma of the operations: what a computation that succeeds has written. -/
theorem writes_of_compute {r : Rounding} {i : Instr} {f g : RegFile} (h : compute r i f = .ok g) :
    Writes i f g := by
  unfold compute at h
  cases i with
  | crcgen => cases h; exact .crcgen f _
  | frmc => cases h; exact .frmc f
  | frmcd => cases h; exact .frmcd f
  | chk1 k =>
    obtain ⟨j, hk, hj⟩ := selected_ok h
    obtain ⟨rfl, -⟩ := checkGroups_ok hj
    exact .chk1 f _ hk
  | chk2 => obtain ⟨rfl, -⟩ := checkGroups_ok h; exact .chk2 f _ _
  | chk3 => obtain ⟨rfl, -⟩ := checkGroups_ok h; exact .chk3 f _ _ _
  | tdec k => obtain ⟨_, -, ⟨⟩⟩ := selected_ok h; exact .tdec k f _
  | hdec k => obtain ⟨_, -, ⟨⟩⟩ := selected_ok h; exact .hdec k f _
  | tenc k =>
    obtain ⟨j, hk, hj⟩ := selected_ok h
    obtain ⟨w, -, rfl⟩ := codeInto_ok hj
    exact .tenc f w hk
  | henc k =>
    obtain ⟨j, hk, hj⟩ := selected_ok h
    obtain ⟨w, -, rfl⟩ := codeInto_ok hj
    exact .henc f w hk
  | thpk => obtain ⟨_, _, -, -, rfl⟩ := twoLanes_ok h; exact .thpk f _
  | ofsenc => obtain ⟨_, _, -, -, rfl⟩ := twoLanes_ok h; exact .ofsenc f _
  | ofsdec k => obtain ⟨_, -, ⟨⟩⟩ := selected_ok h; exact .ofsdec k f _ _

/-- Everything an operation can do: record its unwritten sources, and raise an error or write its
destinations at once. -/
theorem exec_next_cases {i : Instr} {s t : State} (h : exec i s = .next t) :
    (∃ e, t = raise e (noteReads s (sourcesOf i))) ∨
    (∃ g, Writes i s.regs g ∧ t = commit g (noteReads s (sourcesOf i))) := by
  rw [exec_eq_perform] at h
  cases h
  obtain ⟨e, -, h⟩ | ⟨g, hg, h⟩ := perform_cases (sourcesOf i) (compute s.encRoundT i) s
  · exact .inl ⟨e, h⟩
  · exact .inr ⟨g, writes_of_compute hg, h⟩

end Sys2Proof.Machine
end

section
/-!
The register map and the host port (10_state.md R19 to R22, R26, R38).
-/

namespace Sys2Proof.Machine

open Sys2Proof.Claims

/-! ### Registers by number -/

/-- R21's map read backwards, over the 256 register numbers. -/
theorem eq_numberOfReg_of_mem : ∀ n : Byte, ∀ r ∈ regOfNumber n, n = numberOfReg r := by decide +kernel

theorem regOfNumber_eq_some_iff (n : Byte) (r : Reg) : regOfNumber n = some r ↔ n = numberOfReg r :=
  ⟨eq_numberOfReg_of_mem n r, fun h => h ▸ regOfNumber_numberOfReg r⟩

theorem regOfNumber_eq_none {n : Byte} (h : ∀ r, n ≠ numberOfReg r) : regOfNumber n = none :=
  Option.eq_none_iff_forall_ne_some.2 fun r hr => h r (eq_numberOfReg_of_mem n r hr)

/-- Settles O5: the map and its reverse agree, over the 256 numbers. -/
theorem registerNumbersFollowTheMap : Obligations.RegisterNumbersFollowTheMap :=
  ⟨regOfNumber_eq_some_iff, by decide, by decide +kernel⟩

/-! ### Reset -/

theorem isWritten_reset_iff (r : Reg) :
    isWritten RegFile.reset r = true ↔ (r = .ctrl ∨ r = .status ∨ r = .outlen) := by
  cases r <;> simp [isWritten, RegFile.reset]

/-- Settles O1, register by register. -/
theorem resetClearsControlAndMarksTheRestUnwritten :
    Obligations.ResetClearsControlAndMarksTheRestUnwritten :=
  ⟨rfl, rfl, rfl, isWritten_reset_iff⟩

/-- Settles O3: `step` looks at `pending` first. -/
theorem withoutAHostAccessNothingChanges : Obligations.WithoutAHostAccessNothingChanges :=
  fun _ h => step_idle h

/-! ### The step, access by access -/

/-- R23's record as the statements write it is the one the model keeps. -/
theorem record_eq_recordAfter (s : State) (srcs : List Reg) : record s srcs = recordAfter s srcs := by
  cases h : s.unwrittenFault with
  | none => simp [record, unwrittenOf, recordAfter_of_clean srcs h, h]
  | some r => simp [record, recordAfter_of_recorded srcs h, h]

theorem recordAfter_of_written {s : State} {srcs : List Reg}
    (h : ∀ r ∈ srcs, isWritten s.regs r = true) : recordAfter s srcs = s.unwrittenFault := by
  cases hf : s.unwrittenFault with
  | none => exact recordAfter_eq_none.2 ⟨hf, h⟩
  | some r => exact recordAfter_of_recorded srcs hf

section Access
variable {s : State} {rest : List HostAccess} {r : Reg} {v : RegValue} {n : Byte}

theorem step_reset (hp : s.pending = .reset :: rest) :
    step s = .next (hostReset { s with pending := rest }) := step_access hp

theorem step_read (hp : s.pending = .read (numberOfReg r) :: rest) :
    step s = .next { s with pending := rest, reads := regValue s.regs r :: s.reads,
                            unwrittenFault := recordAfter s [r] } := by
  simp [step_access hp, hostAccess, hostRead, regOfNumber_numberOfReg, noteReads, recordAfter]

theorem step_read_unassigned (hp : s.pending = .read n :: rest) (hn : regOfNumber n = none) :
    step s = .next { s with pending := rest, reads := .b8 0 :: s.reads } := by
  simp [step_access hp, hostAccess, hostRead, hn]

theorem step_write_unassigned (hp : s.pending = .write n v :: rest) (hn : regOfNumber n = none) :
    step s = .next { s with pending := rest } := by
  simp [step_access hp, hostAccess, hostWrite, hn]

theorem step_write_refused (hp : s.pending = .write (numberOfReg r) v :: rest)
    (hv : storeReg s.regs r v = none) : step s = .refused (.widthMismatch r v) := by
  simp [step_access hp, hostAccess, hostWrite, regOfNumber_numberOfReg, hv]

theorem step_write_stored {f : RegFile} (hp : s.pending = .write (numberOfReg r) v :: rest)
    (hv : storeReg s.regs r v = some f) (hr : r ≠ .ctrl) :
    step s = .next { s with pending := rest, regs := f } := by
  simp [step_access hp, hostAccess, hostWrite, regOfNumber_numberOfReg, hv, hr]

/-- R26: a write of CTRL stores the value and starts its operation. -/
theorem step_write_ctrl {b : Byte} (hp : s.pending = .write 0x00 (.b8 b) :: rest) :
    step s = startOperation b (stored s b rest) := step_access hp

end Access

/-- R120: an operation that is started completes; it changes neither CTRL nor what is the host's. -/
theorem startOperation_completes (v : Byte) (s : State) :
    ∃ t, startOperation v s = .next t ∧ t.regs.ctrl = s.regs.ctrl ∧ t.reads = s.reads ∧
      t.pending = s.pending := by
  cases h : decode v with
  | error x => exact ⟨_, startOperation_of_error h s, rfl, rfl, rfl⟩
  | ok i =>
    rw [startOperation_of_ok h, exec_eq_perform]
    refine ⟨_, rfl, ?_, perform_reads _ _ s, perform_pending _ _ s⟩
    obtain ⟨e, -, he⟩ | ⟨g, hg, he⟩ := perform_cases (sourcesOf i) (compute s.encRoundT i) s
    · rw [he, raise_regs_ctrl, noteReads_regs]
    · obtain ⟨hctrl, -⟩ := (writes_of_compute hg).host_registers
      rw [he, commit_regs_ctrl, hctrl]

/-- Settles O4: a CTRL write is `startOperation` on the stored value, and `withFetchWord` is such a write. -/
theorem stepRunsTheDecodedOperation : Obligations.StepRunsTheDecodedOperation := by
  refine ⟨fun s v rest i hp hi => ?_, fun s w i hi => ?_⟩
  · rw [step_write_ctrl hp, startOperation_of_ok hi]
  · have hw : tableByte 8 w = BitVec.ofNat 8 w := by
      apply BitVec.eq_of_toNat_eq
      simp [tableByte]
    have hi : decode (BitVec.ofNat 8 w) = .ok i := by
      rw [decodeTableWord, if_pos le_rfl, hw] at hi
      cases h : decode (BitVec.ofNat 8 w) with
      | error x => simp [h, Except.toOption] at hi
      | ok j => simpa [h, Except.toOption] using hi
    have hstep := step_write_ctrl (s := s.withFetchWord 8 w) (withFetchWord_pending s 8 w)
    rw [hstep, hw, startOperation_of_ok hi]
    rfl

/-- Settles O6, by the two equations of a read. -/
theorem hostReadReturnsTheRegisterAndChangesNone :
    Obligations.HostReadReturnsTheRegisterAndChangesNone := by
  refine ⟨fun s r rest hp => ?_, fun s n rest hp hn => step_read_unassigned hp (regOfNumber_eq_none hn)⟩
  rw [step_read hp, record_eq_recordAfter]

/-- Settles O8: `storeReg` accepts exactly the register's width. -/
theorem hostWriteOfAnotherWidthIsRefused : Obligations.HostWriteOfAnotherWidthIsRefused := by
  intro s r v rest hp hw
  have hnone : ¬ (storeReg s.regs r v).isSome = true := mt (storeReg_isSome s.regs r v).1 hw
  exact step_write_refused hp (by simpa using hnone)

/-! ### Access rights -/

/-- R20, R22: a value of the register's width is offered to the register, CTRL apart. -/
theorem step_write_of_width {s : State} {r : Reg} {v : RegValue} {rest : List HostAccess}
    (hp : s.pending = .write (numberOfReg r) v :: rest) (hw : v.width = (regValue s.regs r).width)
    (hctrl : r ≠ .ctrl) :
    ∃ f, storeReg s.regs r v = some f ∧ step s = .next { s with pending := rest, regs := f } := by
  obtain ⟨f, hf⟩ := Option.isSome_iff_exists.1 ((storeReg_isSome s.regs r v).2 hw)
  exact ⟨f, hf, step_write_stored hp hf hctrl⟩

/-- R21: the access column of the register map, as a list of registers. -/
theorem readOnly_of_listed {r : Reg}
    (h : r = .status ∨ r = .crc ∨ r = .outlen ∨ (∃ k, r = .out k) ∨ r = .yt ∨ r = .yh) :
    readOnly r = true ∧ r ≠ .ctrl := by
  cases r <;> simp_all [readOnly]

theorem readWrite_of_listed {r : Reg}
    (h : r = .cmd ∨ r = .data ∨ (∃ k, r = .inb k) ∨ (∃ k, r = .word k) ∨ r = .xt ∨ r = .xh) :
    readOnly r = false ∧ r ≠ .ctrl := by
  cases r <;> simp_all [readOnly]

theorem run_two {s t : State} (h : step s = .next t) : Sys2Proof.core.run 2 s = step t := by
  have hs : Sys2Proof.core.step s = .next t := h
  change _ = Sys2Proof.core.step t
  simp only [Host.Core.run, hs]
  cases Sys2Proof.core.step t <;> rfl

/-- Settles O7, by what `storeReg` does to a read-only and to a read/write register. -/
theorem hostWriteObeysTheAccessRights : Obligations.HostWriteObeysTheAccessRights := by
  refine ⟨fun s r v rest hp hw => ⟨fun hr => ?_, fun hr => ?_⟩,
    fun s n v rest hp hn => step_write_unassigned hp (regOfNumber_eq_none hn),
    fun s n rest hp hn => step_read_unassigned hp (regOfNumber_eq_none hn),
    fun s r v rest hp hw hr => ?_, fun s v rest hp => ?_, fun s r rest hp _ => ⟨_, step_read hp, rfl⟩⟩
  · obtain ⟨hro, hctrl⟩ := readOnly_of_listed hr
    obtain ⟨f, hf, hstep⟩ := step_write_of_width hp hw hctrl
    rw [hstep, storeReg_readOnly hf hro]
  · obtain ⟨hrw, hctrl⟩ := readWrite_of_listed hr
    obtain ⟨f, hf, hstep⟩ := step_write_of_width hp hw hctrl
    obtain ⟨hval, hmark⟩ := storeReg_stores hf hrw
    exact ⟨f, hstep, hval, hmark, fun r' hr' => storeReg_frame hf hr'⟩
  · obtain ⟨hrw, hctrl⟩ := readWrite_of_listed hr
    obtain ⟨f, hf, hstep⟩ := step_write_of_width hp hw hctrl
    obtain ⟨hval, hmark⟩ := storeReg_stores hf hrw
    refine ⟨f, ?_⟩
    rw [run_two hstep, step_read rfl, recordAfter_of_written (by simpa using hmark), hval]
    rfl
  · obtain ⟨t, hstart, hctrl, hreads, hpend⟩ := startOperation_completes v (stored s v _)
    refine ⟨_, (run_two ((step_write_ctrl hp).trans hstart)).trans (step_read hpend), ?_, hctrl⟩
    simp [regValue, hctrl, hreads, stored]

end Sys2Proof.Machine
end

section
/-!
What a step leaves as it was: the registers an operation does not list (R21), the marks of written
registers (R23), and where the fault record comes from (R105).
-/

namespace Sys2Proof.Machine

open Sys2Proof.Claims

/-! ### The registers an operation does not write -/

theorem wordIndex_some {k : BitVec 2} {i : Fin 3} (h : wordIndex k = some i) : i.val = k.toNat := by
  revert h
  revert k i
  decide

theorem putCommand_out_of_two_le (f : RegFile) {k : Fin 5} (hk : 2 ≤ k.val) :
    (putCommand f).out[k] = f.out[k] := by
  have h0 : 0 ≠ k.val := by omega
  have h1 : 1 ≠ k.val := by omega
  simp [putCommand, h0, h1]

theorem putWord_word_of_ne (f : RegFile) {k : BitVec 2} {i j : Fin 3} (w : Word16)
    (hk : wordIndex k = some i) (hj : j.val ≠ k.toNat) : (putWord f i w).word[j] = f.word[j] := by
  have hne : i.val ≠ j.val := by rw [wordIndex_some hk]; exact hj.symm
  simp [hne]

/-- R21: each register the engine writes, with the operations that write it. -/
theorem Writes.engine_registers {i : Instr} {f g : RegFile} (h : Writes i f g) :
    (i ≠ .thpk → i ≠ .ofsenc → g.data = f.data) ∧
    (i ≠ .crcgen → i ≠ .frmcd → g.crc = f.crc) ∧
    (i ≠ .frmc → i ≠ .frmcd → g.outlen = f.outlen ∧ g.out = f.out) ∧
    (i ≠ .frmcd → ∀ k : Fin 5, 2 ≤ k.val → g.out[k] = f.out[k]) ∧
    ((∀ k, i ≠ .chk1 k) → i ≠ .chk2 → i ≠ .chk3 → (∀ k, i ≠ .tenc k) → (∀ k, i ≠ .henc k) →
      g.word = f.word) ∧
    (∀ k : BitVec 2, i = .chk1 k ∨ i = .tenc k ∨ i = .henc k →
      ∀ j : Fin 3, j.val ≠ k.toNat → g.word[j] = f.word[j]) ∧
    ((∀ k, i ≠ .tdec k) → (∀ k, i ≠ .ofsdec k) → g.yt = f.yt) ∧
    ((∀ k, i ≠ .hdec k) → (∀ k, i ≠ .ofsdec k) → g.yh = f.yh) := by
  cases h with
  | frmc => simpa using fun k hk => putCommand_out_of_two_le f hk
  | chk1 _ _ hk | tenc _ _ hk | henc _ _ hk => simpa using fun j hj => putWord_word_of_ne f _ hk hj
  | _ => simp

/-- Settles O42: an error writes STATUS alone, a success its listed destinations. -/
theorem operationsWriteOnlyTheirListedRegisters :
    Obligations.OperationsWriteOnlyTheirListedRegisters := by
  intro i s t h
  obtain ⟨e, rfl⟩ | ⟨g, hw, rfl⟩ := exec_next_cases h
  · simp
  · obtain ⟨hdata, hcrc, hframe, hout, hword, hwords, hyt, hyh⟩ := hw.engine_registers
    exact ⟨hw.host_registers, hdata, hcrc, hframe, hout, hword, hwords, hyt, hyh, rfl, rfl, rfl⟩

/-! ### The marks -/

theorem isWritten_status (f : RegFile) (b : Byte) (r : Reg) :
    isWritten { f with status := b } r = isWritten f r := by
  cases r <;> rfl

theorem isWritten_ctrl (f : RegFile) (b : Byte) (r : Reg) :
    isWritten { f with ctrl := b } r = isWritten f r := by
  cases r <;> rfl

/-- Writing one element of a row of registers unmarks no other. -/
theorem set_written {w n : Nat} {v : Vector (Slot w) n} {i k : Fin n} {x : BitVec w}
    (h : v[k].written = true) : (v.set i (.of x))[k].written = true := by
  simp only [Fin.getElem_fin, Vector.getElem_set]
  split
  · rfl
  · exact h

theorem isWritten_putWord {f : RegFile} {r : Reg} (i : Fin 3) (w : Word16) (h : isWritten f r = true) :
    isWritten (putWord f i w) r = true := by
  cases r with
  | word k => exact set_written h
  | _ => exact h

theorem isWritten_putOut {f : RegFile} {r : Reg} (k : Fin 5) (b : Byte) (h : isWritten f r = true) :
    isWritten (putOut f k b) r = true := by
  cases r with
  | out k => exact set_written h
  | _ => exact h

theorem frameBytes_written (c d : Word16) : ∀ k : Fin 5, (frameBytes c d)[k].written = true := by
  simp [frameBytes, Fin.forall_fin_succ]

/-- R23: an operation marks no register unwritten. -/
theorem Writes.keeps_written {i : Instr} {f g : RegFile} {r : Reg} (hw : Writes i f g)
    (h : isWritten f r = true) : isWritten g r = true := by
  cases hw with
  | frmc =>
    have hput := isWritten_putOut 1 (lowByte f.cmd.val) (isWritten_putOut 0 (highByte f.cmd.val) h)
    cases r <;> exact hput
  | frmcd =>
    cases r with
    | crc => rfl
    | out k => exact frameBytes_written _ _ k
    | _ => exact h
  | chk1 | tenc | henc => exact isWritten_putWord _ _ h
  | chk2 => exact isWritten_putWord _ _ (isWritten_putWord _ _ h)
  | chk3 => exact isWritten_putWord _ _ (isWritten_putWord _ _ (isWritten_putWord _ _ h))
  | crcgen | tdec | hdec | thpk | ofsenc | ofsdec => cases r <;> simp_all [isWritten]

theorem exec_keeps_written {i : Instr} {s t : State} {r : Reg} (h : exec i s = .next t)
    (hr : isWritten s.regs r = true) : isWritten t.regs r = true := by
  obtain ⟨e, rfl⟩ | ⟨g, hw, rfl⟩ := exec_next_cases h
  · exact (isWritten_status s.regs _ r).trans hr
  · exact (isWritten_status g _ r).trans (hw.keeps_written hr)

theorem storeReg_keeps_written {f g : RegFile} {r r' : Reg} {v : RegValue}
    (h : storeReg f r v = some g) (hr : isWritten f r' = true) : isWritten g r' = true := by
  by_cases hne : r' = r
  · subst hne
    cases hro : readOnly r' with
    | true => rw [storeReg_readOnly h hro, hr]
    | false => exact (storeReg_stores h hro).2
  · rw [(storeReg_frame h hne).2, hr]

/-! ### Everything a step can do -/

/-- The ways a step answers a next state, by the access it takes off `pending`. -/
inductive StepCase (s : State) : State → Prop
  | idle : s.pending = [] → StepCase s s
  | reset {rest} : s.pending = .reset :: rest → StepCase s (hostReset { s with pending := rest })
  | readUnassigned {n rest} : s.pending = .read n :: rest → regOfNumber n = none →
      StepCase s { s with pending := rest, reads := .b8 0 :: s.reads }
  | read {r rest} : s.pending = .read (numberOfReg r) :: rest →
      StepCase s { s with pending := rest, reads := regValue s.regs r :: s.reads,
                          unwrittenFault := recordAfter s [r] }
  | writeUnassigned {n v rest} : s.pending = .write n v :: rest → regOfNumber n = none →
      StepCase s { s with pending := rest }
  | write {r v rest f} : s.pending = .write (numberOfReg r) v :: rest → r ≠ .ctrl →
      storeReg s.regs r v = some f → StepCase s { s with pending := rest, regs := f }
  | illegal {b x rest} : s.pending = .write 0x00 (.b8 b) :: rest → decode b = .error x →
      StepCase s (raise .illegalOp (stored s b rest))
  | operation {b i rest t} : s.pending = .write 0x00 (.b8 b) :: rest → decode b = .ok i →
      exec i (stored s b rest) = .next t → StepCase s t

/-- A write of CTRL starts an operation, or raises `IllegalOp` (R59, R75). -/
theorem StepCase.of_startOperation {s t : State} {b : Byte} {rest : List HostAccess}
    (hp : s.pending = .write 0x00 (.b8 b) :: rest) (h : startOperation b (stored s b rest) = .next t) :
    StepCase s t := by
  cases hd : decode b with
  | error x =>
    rw [startOperation_of_error hd] at h
    cases h
    exact .illegal hp hd
  | ok i => exact .operation hp hd (startOperation_of_ok hd _ ▸ h)

/-- The inversion lemma of `step`. -/
theorem stepCase_of_step {s t : State} (h : step s = .next t) : StepCase s t := by
  obtain ⟨hp, rfl⟩ | ⟨a, rest, hp, ha⟩ := step_next_cases h
  · exact .idle hp
  · cases a with
    | reset => cases ha; exact .reset hp
    | read n =>
      cases hn : regOfNumber n with
      | none =>
        rw [step_read_unassigned hp hn] at h
        cases h
        exact .readUnassigned hp hn
      | some r =>
        obtain rfl := eq_numberOfReg_of_mem n r hn
        rw [step_read hp] at h
        cases h
        exact .read hp
    | write n v =>
      obtain ⟨hn, hw⟩ | ⟨r, -, -, hw⟩ | ⟨r, f, hn, hr, hf, hw⟩ | ⟨b, hn, rfl, hw⟩ :=
        hostWrite_cases n v { s with pending := rest }
      · cases hw.symm.trans ha
        exact .writeUnassigned hp hn
      · cases hw.symm.trans ha
      · obtain rfl := eq_numberOfReg_of_mem n r hn
        cases hw.symm.trans ha
        exact .write hp hr hf
      · obtain rfl := eq_numberOfReg_of_mem n .ctrl hn
        exact .of_startOperation hp (hw.symm.trans ha)

/-- R105, R20: a step of this model answers a next state or refuses a write; it never faults. -/
theorem step_next_or_refused (s : State) : (∃ t, step s = .next t) ∨ (∃ x, step s = .refused x) := by
  cases hp : s.pending with
  | nil => exact .inl ⟨s, step_idle hp⟩
  | cons a rest =>
    rw [step_access hp]
    cases a with
    | reset => exact .inl ⟨_, rfl⟩
    | read n => exact .inl ⟨_, rfl⟩
    | write n v =>
      obtain ⟨-, hw⟩ | ⟨r, -, -, hw⟩ | ⟨r, f, -, -, -, hw⟩ | ⟨b, -, rfl, hw⟩ :=
        hostWrite_cases n v { s with pending := rest }
      · exact .inl ⟨_, hw⟩
      · exact .inr ⟨_, hw⟩
      · exact .inl ⟨_, hw⟩
      · obtain ⟨t, ht, -⟩ := startOperation_completes b (stored s b rest)
        exact .inl ⟨t, hw.trans ht⟩

/-- Settles O48: only the reset input marks a register unwritten. -/
theorem writtenRegistersStayWrittenUntilReset : Obligations.WrittenRegistersStayWrittenUntilReset := by
  intro s t r h hreset hr
  cases stepCase_of_step h with
  | reset hp => exact absurd (congrArg List.head? hp) hreset
  | idle | readUnassigned | read | writeUnassigned => exact hr
  | write _ _ hf => exact storeReg_keeps_written hf hr
  | illegal => exact (isWritten_status _ _ r).trans ((isWritten_ctrl s.regs _ r).trans hr)
  | operation _ _ he => exact exec_keeps_written he ((isWritten_ctrl s.regs _ r).trans hr)

/-! ### The fault record -/

/-- R75, R105: an operation records its unwritten sources. -/
theorem exec_unwrittenFault {i : Instr} {s t : State} (h : exec i s = .next t) :
    t.unwrittenFault = recordAfter s (sourcesOf i) := by
  rw [exec_eq_perform] at h
  cases h
  exact perform_unwrittenFault _ _ s

theorem recordAfter_eq_some_iff {s : State} {srcs : List Reg} {x : UnwrittenRecord}
    (hs : s.unwrittenFault = none) :
    recordAfter s srcs = some x ↔ unwrittenOf s srcs ≠ [] ∧ x = ⟨unwrittenOf s srcs, s.regs⟩ := by
  rw [recordAfter_of_clean srcs hs]
  unfold unwrittenOf
  split
  case isTrue h => simp [h]
  case isFalse h => simp [h, eq_comm]

/-- Storing CTRL changes no mark, so an operation's record names what was unwritten before the write. -/
theorem recordAfter_stored_eq_some_iff {s : State} {b : Byte} {rest : List HostAccess} {srcs : List Reg}
    {x : UnwrittenRecord} (hs : s.unwrittenFault = none) :
    recordAfter (stored s b rest) srcs = some x ↔
      unwrittenOf s srcs ≠ [] ∧ x = ⟨unwrittenOf s srcs, { s.regs with ctrl := b }⟩ := by
  have hunw : unwrittenOf (stored s b rest) srcs = unwrittenOf s srcs := by
    simp only [unwrittenOf, stored, isWritten_ctrl]
  rw [← hunw]
  exact recordAfter_eq_some_iff (s := stored s b rest) hs

/-- An access that reads an unwritten register is performed and recorded (log entry 2). -/
theorem step_of_readsUnwritten {s : State} {x : UnwrittenRecord} (hs : s.unwrittenFault = none)
    (h : ReadsUnwritten s x) : ∃ t, step s = .next t ∧ t.unwrittenFault = some x := by
  obtain ⟨r, rest, hp, hr, rfl⟩ | ⟨b, i, rest, hp, hd, hsrc, rfl⟩ := h
  · refine ⟨_, step_read hp, (recordAfter_eq_some_iff hs).2 ?_⟩
    simp [unwrittenOf, hr]
  · have hexec := exec_eq_perform i (stored s b rest)
    refine ⟨_, ?_, (exec_unwrittenFault hexec).trans ((recordAfter_stored_eq_some_iff hs).2 ⟨hsrc, rfl⟩)⟩
    rw [step_write_ctrl hp, startOperation_of_ok hd, hexec]

/-- A record appears only where the access reads an unwritten register. -/
theorem readsUnwritten_of_step {s t : State} {x : UnwrittenRecord} (hs : s.unwrittenFault = none)
    (h : step s = .next t) (ht : t.unwrittenFault = some x) : ReadsUnwritten s x := by
  cases stepCase_of_step h with
  | idle | reset | readUnassigned | writeUnassigned | write | illegal => cases hs.symm.trans ht
  | @read r _ hp =>
    obtain ⟨hne, rfl⟩ := (recordAfter_eq_some_iff hs).1 ht
    have hr : isWritten s.regs r = false := by simpa [unwrittenOf] using hne
    exact .inl ⟨r, _, hp, hr, by simp [unwrittenOf, hr]⟩
  | @operation b i rest _ hp hd he =>
    rw [exec_unwrittenFault he] at ht
    obtain ⟨hne, rfl⟩ := (recordAfter_stored_eq_some_iff hs).1 ht
    exact .inr ⟨b, i, rest, hp, hd, hne, rfl⟩

/-! ### The strict step -/

section Strict
open Safety
variable {s t : State} {x : UnwrittenRecord}

theorem strictStep_of_recorded (hs : s.unwrittenFault = some x) :
    strictStep s = .fault (.unwritten x) := by
  simp [strictStep, hs]

theorem strictStep_of_next (hs : s.unwrittenFault = none) (h : step s = .next t)
    (ht : t.unwrittenFault = none) : strictStep s = .next t := by
  simp [strictStep, hs, h, ht]

theorem strictStep_of_next_recorded (hs : s.unwrittenFault = none) (h : step s = .next t)
    (ht : t.unwrittenFault = some x) : strictStep s = .fault (.unwritten x) := by
  simp [strictStep, hs, h, ht]

theorem strictStep_of_refused {y : Refusal} (hs : s.unwrittenFault = none) (h : step s = .refused y) :
    strictStep s = .refused y := by
  simp [strictStep, hs, h]

/-- R105: from a clean state the strict step stops, with the record, exactly at an unwritten read. -/
theorem strictStep_fault_iff {e : Fault} (hs : s.unwrittenFault = none) :
    strictStep s = .fault e ↔ ∃ x, ReadsUnwritten s x ∧ e = .unwritten x := by
  constructor
  · intro h
    obtain ⟨t, hstep⟩ | ⟨y, hstep⟩ := step_next_or_refused s
    · cases ht : t.unwrittenFault with
      | none => cases (strictStep_of_next hs hstep ht).symm.trans h
      | some x =>
        cases (strictStep_of_next_recorded hs hstep ht).symm.trans h
        exact ⟨x, readsUnwritten_of_step hs hstep ht, rfl⟩
    · cases (strictStep_of_refused hs hstep).symm.trans h
  · rintro ⟨x, hx, rfl⟩
    obtain ⟨t, hstep, ht⟩ := step_of_readsUnwritten hs hx
    exact strictStep_of_next_recorded hs hstep ht

theorem step_clean_of_no_unwritten_read (hs : s.unwrittenFault = none)
    (hx : ∀ x, ¬ ReadsUnwritten s x) (h : step s = .next t) : t.unwrittenFault = none :=
  Option.eq_none_iff_forall_ne_some.2 fun x ht => hx x (readsUnwritten_of_step hs h ht)

theorem strictStep_eq_step (hs : s.unwrittenFault = none) (hx : ∀ x, ¬ ReadsUnwritten s x) :
    strictStep s = step s := by
  obtain ⟨t, h⟩ | ⟨y, h⟩ := step_next_or_refused s
  · rw [strictStep_of_next hs h (step_clean_of_no_unwritten_read hs hx h), h]
  · rw [strictStep_of_refused hs h, h]

theorem strictStep_next_iff : strictStep s = .next t ↔
    (step s = .next t ∧ s.unwrittenFault = none ∧ t.unwrittenFault = none) := by
  refine ⟨fun h => ?_, fun ⟨h, hs, ht⟩ => strictStep_of_next hs h ht⟩
  cases hs : s.unwrittenFault with
  | some x => cases (strictStep_of_recorded hs).symm.trans h
  | none =>
    have hx : ∀ x, ¬ ReadsUnwritten s x := fun x hx => by
      cases ((strictStep_fault_iff hs).2 ⟨x, hx, rfl⟩).symm.trans h
    have hstep := (strictStep_eq_step hs hx).symm.trans h
    exact ⟨hstep, rfl, step_clean_of_no_unwritten_read hs hx hstep⟩

end Strict

/-- Settles O47: the strict step is `step` but for the record, and a record appears exactly at an
unwritten read. -/
theorem theStrictModelStopsAtTheFirstUnwrittenRead :
    Obligations.TheStrictModelStopsAtTheFirstUnwrittenRead :=
  ⟨fun _ _ hs => strictStep_fault_iff hs,
    fun _ hs hx => ⟨strictStep_eq_step hs hx, fun _ h => step_clean_of_no_unwritten_read hs hx h⟩,
    fun _ _ hs => strictStep_of_recorded hs, fun _ _ => strictStep_next_iff,
    fun _ _ _ hs h ht => strictStep_of_next_recorded hs h ht⟩

end Sys2Proof.Machine
end

section
/-!
Noninterference (R23, R105): the bits of unwritten registers cannot be seen by a step that records no
fault. A computation reads its sources only, so on two register files that agree, with every source
written, it has the same outcome.
-/

namespace Sys2Proof.Machine

open Sys2Proof.Claims

/-! ### Agreement, field by field -/

/-- Two slots with the same mark, and the same bits if they are written. -/
def SlotAgree {w : Nat} (a b : Slot w) : Prop :=
  a.written = b.written ∧ (a.written = true → a.val = b.val)

/-- `Agree` field by field, so that an update of one field keeps the others' proofs. -/
structure AgreeFields (f g : RegFile) : Prop where
  ctrl : f.ctrl = g.ctrl
  status : f.status = g.status
  cmd : SlotAgree f.cmd g.cmd
  data : SlotAgree f.data g.data
  crc : SlotAgree f.crc g.crc
  outlen : f.outlen = g.outlen
  out (k : Fin 5) : SlotAgree f.out[k] g.out[k]
  inb (k : Fin 9) : SlotAgree f.inb[k] g.inb[k]
  word (k : Fin 3) : SlotAgree f.word[k] g.word[k]
  xt : SlotAgree f.xt g.xt
  xh : SlotAgree f.xh g.xh
  yt : SlotAgree f.yt g.yt
  yh : SlotAgree f.yh g.yh

theorem agree_iff {f g : RegFile} : Agree f g ↔ AgreeFields f g := by
  constructor
  · intro h
    exact
      { ctrl := RegValue.b8.inj ((h .ctrl).2 rfl)
        status := RegValue.b8.inj ((h .status).2 rfl)
        cmd := ⟨(h .cmd).1, fun hw => RegValue.b16.inj ((h .cmd).2 hw)⟩
        data := ⟨(h .data).1, fun hw => RegValue.b16.inj ((h .data).2 hw)⟩
        crc := ⟨(h .crc).1, fun hw => RegValue.b8.inj ((h .crc).2 hw)⟩
        outlen := RegValue.b8.inj ((h .outlen).2 rfl)
        out := fun k => ⟨(h (.out k)).1, fun hw => RegValue.b8.inj ((h (.out k)).2 hw)⟩
        inb := fun k => ⟨(h (.inb k)).1, fun hw => RegValue.b8.inj ((h (.inb k)).2 hw)⟩
        word := fun k => ⟨(h (.word k)).1, fun hw => RegValue.b16.inj ((h (.word k)).2 hw)⟩
        xt := ⟨(h .xt).1, fun hw => RegValue.b64.inj ((h .xt).2 hw)⟩
        xh := ⟨(h .xh).1, fun hw => RegValue.b64.inj ((h .xh).2 hw)⟩
        yt := ⟨(h .yt).1, fun hw => RegValue.b64.inj ((h .yt).2 hw)⟩
        yh := ⟨(h .yh).1, fun hw => RegValue.b64.inj ((h .yh).2 hw)⟩ }
  · intro h r
    cases r with
    | ctrl => exact ⟨rfl, fun _ => congrArg _ h.ctrl⟩
    | status => exact ⟨rfl, fun _ => congrArg _ h.status⟩
    | cmd => exact ⟨h.cmd.1, fun hw => congrArg _ (h.cmd.2 hw)⟩
    | data => exact ⟨h.data.1, fun hw => congrArg _ (h.data.2 hw)⟩
    | crc => exact ⟨h.crc.1, fun hw => congrArg _ (h.crc.2 hw)⟩
    | outlen => exact ⟨rfl, fun _ => congrArg _ h.outlen⟩
    | out k => exact ⟨(h.out k).1, fun hw => congrArg _ ((h.out k).2 hw)⟩
    | inb k => exact ⟨(h.inb k).1, fun hw => congrArg _ ((h.inb k).2 hw)⟩
    | word k => exact ⟨(h.word k).1, fun hw => congrArg _ ((h.word k).2 hw)⟩
    | xt => exact ⟨h.xt.1, fun hw => congrArg _ (h.xt.2 hw)⟩
    | xh => exact ⟨h.xh.1, fun hw => congrArg _ (h.xh.2 hw)⟩
    | yt => exact ⟨h.yt.1, fun hw => congrArg _ (h.yt.2 hw)⟩
    | yh => exact ⟨h.yh.1, fun hw => congrArg _ (h.yh.2 hw)⟩

theorem slotAgree_of {w : Nat} {x y : BitVec w} (h : x = y) : SlotAgree (.of x) (.of y) :=
  ⟨rfl, fun _ => h⟩

theorem slotAgree_set {w n : Nat} {u v : Vector (Slot w) n} {x y : BitVec w} (i : Fin n) (hx : x = y)
    (h : ∀ k : Fin n, SlotAgree u[k] v[k]) (k : Fin n) :
    SlotAgree (u.set i (.of x))[k] (v.set i (.of y))[k] := by
  simp only [Fin.getElem_fin, Vector.getElem_set]
  split
  · exact slotAgree_of hx
  · exact h k

/-! ### What a computation reads -/

/-- The same error, or registers that agree. -/
inductive SameOutcome : Except OpError RegFile → Except OpError RegFile → Prop
  | error (e) : SameOutcome (.error e) (.error e)
  | ok {f g} : AgreeFields f g → SameOutcome (.ok f) (.ok g)

section Compute
variable {f g : RegFile} (h : AgreeFields f g)
include h

theorem AgreeFields.putWord {v w : Word16} (i : Fin 3) (hw : v = w) :
    AgreeFields (putWord f i v) (putWord g i w) :=
  { h with word := slotAgree_set i hw h.word }

theorem AgreeFields.putOut {x y : Byte} (k : Fin 5) (hx : x = y) :
    AgreeFields (putOut f k x) (putOut g k y) :=
  { h with out := slotAgree_set k hx h.out }

/-- A group's bytes are the bits of three of its check's sources. -/
theorem AgreeFields.groupByte_eq {gs : List (Fin 3)} {j : Fin 3}
    (hw : ∀ x ∈ groupSources gs, isWritten f x = true) (hj : j ∈ gs) (k : Fin 3) :
    groupByte f j k = groupByte g j k := by
  refine (h.inb ⟨3 * j.val + k.val, by omega⟩).2 (hw (.inb ⟨3 * j.val + k.val, by omega⟩) ?_)
  refine List.mem_flatMap.2 ⟨j, hj, ?_⟩
  obtain rfl | rfl | rfl : k = 0 ∨ k = 1 ∨ k = 2 := by omega
  · simp
  · simp
  · simp

theorem AgreeFields.groupWord_eq {gs : List (Fin 3)} {j : Fin 3}
    (hw : ∀ x ∈ groupSources gs, isWritten f x = true) (hj : j ∈ gs) : groupWord f j = groupWord g j := by
  simp only [groupWord, h.groupByte_eq hw hj]

theorem AgreeFields.firstBadGroup_eq {gs : List (Fin 3)}
    (hw : ∀ x ∈ groupSources gs, isWritten f x = true) : firstBadGroup f gs = firstBadGroup g gs := by
  induction gs with
  | nil => rfl
  | cons j gs ih =>
    have hok : groupOk f j = groupOk g j := by
      simp only [groupOk, h.groupByte_eq hw List.mem_cons_self]
    have htail : ∀ x ∈ groupSources gs, isWritten f x = true := fun x hx =>
      hw x (List.mem_append_right _ hx)
    rw [firstBadGroup, firstBadGroup, hok, ih htail]

theorem AgreeFields.checkGroups_same {gs : List (Fin 3)} {f' g' : RegFile}
    (hw : ∀ x ∈ groupSources gs, isWritten f x = true) (h' : AgreeFields f' g') :
    SameOutcome (checkGroups gs f f') (checkGroups gs g g') := by
  unfold checkGroups
  rw [← h.firstBadGroup_eq hw]
  cases firstBadGroup f gs with
  | none => exact .ok h'
  | some b => exact .error _

theorem AgreeFields.codeInto_same (lane : Fin 2) (i : Fin 3) {c d : Option Word16} (hc : c = d) :
    SameOutcome (codeInto lane i f c) (codeInto lane i g d) := by
  subst hc
  cases c with
  | none => exact .error _
  | some w => exact .ok (h.putWord i rfl)

theorem AgreeFields.twoLanes_same {α β : Type} {t t' : Option α} {u u' : Option β} (w : α → β → Word16)
    (ht : t = t') (hu : u = u') :
    SameOutcome (twoLanes t u (fun a b => { f with data := .of (w a b) }))
      (twoLanes t' u' (fun a b => { g with data := .of (w a b) })) := by
  subst ht hu
  cases t with
  | none => exact .error _
  | some a =>
    cases u with
    | none => exact .error _
    | some b => exact .ok { h with data := slotAgree_of rfl }

/-- The WORD register a SEL names, where it is the operation's source. -/
theorem AgreeFields.word_eq_of_source {k : BitVec 2} {i : Fin 3} (hi : wordIndex k = some i)
    (hw : ∀ x ∈ sourcesOf (.tdec k), isWritten f x = true) : f.word[i].val = g.word[i].val := by
  refine (h.word i).2 (hw (.word i) ?_)
  simp [sourcesOf_tdec, hi]

omit h in
theorem selected_same {k : BitVec 2} {c : Fin 3 → RegFile → Except OpError RegFile}
    (hc : ∀ i, wordIndex k = some i → SameOutcome (c i f) (c i g)) :
    SameOutcome (selected k c f) (selected k c g) := by
  unfold selected
  cases hk : wordIndex k with
  | none => exact .error _
  | some i => exact hc i hk

/-- A computation reads the bits of its sources only (R75, R121). -/
theorem AgreeFields.compute_same (r : Rounding) (i : Instr)
    (hw : ∀ x ∈ sourcesOf i, isWritten f x = true) :
    SameOutcome (compute r i f) (compute r i g) := by
  unfold compute
  cases i with
  | crcgen =>
    have hdata : f.data.val = g.data.val := h.data.2 (hw .data (by simp [sourcesOf]))
    exact .ok { h with crc := slotAgree_of (congrArg _ hdata) }
  | frmc =>
    have hcmd : f.cmd.val = g.cmd.val := h.cmd.2 (hw .cmd (by simp [sourcesOf]))
    exact .ok { (h.putOut 0 (congrArg highByte hcmd)).putOut 1 (congrArg lowByte hcmd) with outlen := rfl }
  | frmcd =>
    have hcmd : f.cmd.val = g.cmd.val := h.cmd.2 (hw .cmd (by simp [sourcesOf]))
    have hdata : f.data.val = g.data.val := h.data.2 (hw .data (by simp [sourcesOf]))
    have hout (k : Fin 5) : SlotAgree (putFrame f).out[k] (putFrame g).out[k] := by
      rw [putFrame_out, putFrame_out, hcmd, hdata]
      exact ⟨rfl, fun _ => rfl⟩
    exact .ok { h with out := hout, crc := slotAgree_of (congrArg _ hdata), outlen := rfl }
  | chk1 k =>
    refine selected_same fun i hi => ?_
    rw [sourcesOf_chk1, hi] at hw
    exact h.checkGroups_same hw (h.putWord i (h.groupWord_eq hw (by simp)))
  | chk2 =>
    have hw : ∀ x ∈ groupSources [0, 1], isWritten f x = true := hw
    exact h.checkGroups_same hw ((h.putWord 0 (h.groupWord_eq hw (by simp))).putWord 1
      (h.groupWord_eq hw (by simp)))
  | chk3 =>
    have hw : ∀ x ∈ groupSources [0, 1, 2], isWritten f x = true := hw
    exact h.checkGroups_same hw (((h.putWord 0 (h.groupWord_eq hw (by simp))).putWord 1
      (h.groupWord_eq hw (by simp))).putWord 2 (h.groupWord_eq hw (by simp)))
  | tdec k =>
    refine selected_same fun i hi => .ok { h with yt := slotAgree_of (congrArg decT ?_) }
    exact h.word_eq_of_source hi hw
  | hdec k =>
    refine selected_same fun i hi => .ok { h with yh := slotAgree_of (congrArg decH ?_) }
    exact h.word_eq_of_source hi hw
  | ofsdec k =>
    refine selected_same fun i hi => .ok ?_
    have hword : f.word[i].val = g.word[i].val := h.word_eq_of_source hi hw
    exact { h with yh := slotAgree_of (by rw [hword]), yt := slotAgree_of (by rw [hword]) }
  | tenc k =>
    refine selected_same fun i hi => h.codeInto_same 0 i (congrArg (encT r) (h.xt.2 (hw .xt ?_)))
    simp [sourcesOf_tenc, hi]
  | henc k =>
    refine selected_same fun i hi => h.codeInto_same 1 i (congrArg encH (h.xh.2 (hw .xh ?_)))
    simp [sourcesOf_henc, hi]
  | thpk | ofsenc =>
    have hxt : f.xt.val = g.xt.val := h.xt.2 (hw .xt (by simp [sourcesOf]))
    have hxh : f.xh.val = g.xh.val := h.xh.2 (hw .xh (by simp [sourcesOf]))
    exact h.twoLanes_same _ (by rw [hxt]) (by rw [hxh])

end Compute

/-! ### Every access keeps agreement -/

theorem regValue_width (f g : RegFile) (r : Reg) : (regValue f r).width = (regValue g r).width := by
  cases r <;> rfl

/-- R20, R22: the same host write is accepted by both, and stores the same value in both. -/
theorem agree_storeReg {f g f' : RegFile} {r : Reg} {v : RegValue} (h : Agree f g)
    (hf : storeReg f r v = some f') : ∃ g', storeReg g r v = some g' ∧ Agree f' g' := by
  have hwidth := (storeReg_isSome f r v).1 (Option.isSome_of_eq_some hf)
  obtain ⟨g', hg⟩ := Option.isSome_iff_exists.1
    ((storeReg_isSome g r v).2 (hwidth.trans (regValue_width f g r)))
  refine ⟨g', hg, ?_⟩
  cases hro : readOnly r with
  | true => rwa [storeReg_readOnly hf hro, storeReg_readOnly hg hro]
  | false =>
    intro r'
    by_cases hne : r' = r
    · subst hne
      obtain ⟨hfv, hfw⟩ := storeReg_stores hf hro
      obtain ⟨hgv, hgw⟩ := storeReg_stores hg hro
      exact ⟨hfw.trans hgw.symm, fun _ => hfv.trans hgv.symm⟩
    · obtain ⟨hfv, hfw⟩ := storeReg_frame hf hne
      obtain ⟨hgv, hgw⟩ := storeReg_frame hg hne
      rw [hfv, hfw, hgv, hgw]
      exact h r'

section Machines
variable {s s' : State} (h : AgreeState s s')
include h

theorem agreeState_raise (e : OpError) : AgreeState (raise e s) (raise e s') := by
  obtain ⟨hregs, hhost⟩ := h
  exact ⟨agree_iff.2 { agree_iff.1 hregs with status := rfl }, hhost⟩

theorem agreeState_commit {f g : RegFile} (hfg : AgreeFields f g) :
    AgreeState (commit f s) (commit g s') := by
  obtain ⟨-, hhost⟩ := h
  exact ⟨agree_iff.2 { hfg with status := rfl }, hhost⟩

/-- A read of written registers is recorded in neither machine. -/
theorem agreeState_noteReads {srcs : List Reg} (hclean : recordAfter s srcs = none) :
    AgreeState (noteReads s srcs) (noteReads s' srcs) := by
  obtain ⟨hregs, henc, hpend, hreads, hfault⟩ := h
  obtain ⟨hs, hw⟩ := recordAfter_eq_none.1 hclean
  have hclean' : recordAfter s' srcs = none :=
    recordAfter_eq_none.2 ⟨hfault ▸ hs, fun r hr => (hregs r).1 ▸ hw r hr⟩
  exact ⟨hregs, henc, hpend, hreads, hclean.trans hclean'.symm⟩

theorem agreeState_stored (b : Byte) (rest : List HostAccess) :
    AgreeState (stored s b rest) (stored s' b rest) := by
  obtain ⟨hregs, henc, -, hreads, hfault⟩ := h
  exact ⟨agree_iff.2 { agree_iff.1 hregs with ctrl := rfl }, henc, rfl, hreads, hfault⟩

theorem agreeState_exec {i : Instr} {t : State} (ht : exec i s = .next t)
    (hclean : t.unwrittenFault = none) : ∃ t', exec i s' = .next t' ∧ AgreeState t t' := by
  rw [exec_unwrittenFault ht] at hclean
  obtain ⟨-, hw⟩ := recordAfter_eq_none.1 hclean
  have ⟨hregs, henc, _⟩ := h
  have hsame := (agree_iff.1 hregs).compute_same s.encRoundT i hw
  have hnote := agreeState_noteReads h hclean
  rw [exec_eq_perform] at ht
  cases ht
  refine ⟨_, exec_eq_perform i s', ?_⟩
  rw [← henc, perform, perform]
  generalize compute s.encRoundT i s.regs = x, compute s.encRoundT i s'.regs = y at hsame
  cases hsame with
  | error e => exact agreeState_raise hnote e
  | ok hfg => exact agreeState_commit hnote hfg

end Machines

/-- Settles O49: access by access, the second machine has the same access to perform and the same outcome. -/
theorem unwrittenBitsDoNotMatterInACleanStep : Obligations.UnwrittenBitsDoNotMatterInACleanStep := by
  intro s s' t h ht hclean
  have ⟨hregs, henc, hpend, hreads, hfault⟩ := h
  cases stepCase_of_step ht with
  | idle hp => exact ⟨s', step_idle (hpend.symm.trans hp), h⟩
  | reset hp =>
    exact ⟨_, step_reset (hpend.symm.trans hp), fun _ => ⟨rfl, fun _ => rfl⟩, henc, rfl, hreads, hfault⟩
  | readUnassigned hp hn =>
    exact ⟨_, step_read_unassigned (hpend.symm.trans hp) hn, hregs, henc, rfl, congrArg (_ :: ·) hreads,
      hfault⟩
  | @read r _ hp =>
    obtain ⟨-, hw⟩ := recordAfter_eq_none.1 hclean
    obtain ⟨-, -, -, -, hrec⟩ := agreeState_noteReads h hclean
    refine ⟨_, step_read (hpend.symm.trans hp), hregs, henc, rfl, ?_, hrec⟩
    rw [hreads, (hregs r).2 (hw r List.mem_cons_self)]
  | writeUnassigned hp hn =>
    exact ⟨_, step_write_unassigned (hpend.symm.trans hp) hn, hregs, henc, rfl, hreads, hfault⟩
  | write hp hr hf =>
    obtain ⟨g, hg, hfg⟩ := agree_storeReg hregs hf
    exact ⟨_, step_write_stored (hpend.symm.trans hp) hg hr, hfg, henc, rfl, hreads, hfault⟩
  | illegal hp hd =>
    refine ⟨_, ?_, agreeState_raise (agreeState_stored h _ _) .illegalOp⟩
    rw [step_write_ctrl (hpend.symm.trans hp), startOperation_of_error hd]
  | operation hp hd he =>
    obtain ⟨t', he', hagree⟩ := agreeState_exec (agreeState_stored h _ _) he hclean
    exact ⟨t', by rw [step_write_ctrl (hpend.symm.trans hp), startOperation_of_ok hd, he'], hagree⟩

end Sys2Proof.Machine
end

section
/-!
A written physical output is finite (R98): each step of the decoders keeps its result within a bound far
below the largest finite value.
-/

namespace Sys2Proof.Machine

open Sys2Proof.Claims

/-- Rounding does not pass a finite value that bounds the exact one. -/
theorem roundMag_le {n d y : Nat} (hd : 0 < d) (hy : y < infMag) (h : n ≤ magUnits y * d) :
    roundMag n d ≤ y := by
  obtain ⟨-, -, hnear⟩ | ⟨-, hhuge⟩ := nearestEven_roundMag n hd
  · by_contra hlt
    have hmag : magUnits y * d < magUnits (roundMag n d) * d :=
      Nat.mul_lt_mul_of_pos_right (magUnits_strictMono (Nat.lt_of_not_le hlt)) hd
    obtain ⟨hdist, -⟩ := hnear y hy
    unfold Claims.dist at hdist
    omega
  · have hmax : magUnits y * d ≤ (2 ^ 54 - 2) * 2 ^ 2044 * d := by
      rw [← magUnits_infMag_pred]
      exact Nat.mul_le_mul_right d (magUnits_strictMono.monotone (Nat.le_pred_of_lt hy))
    have hpos : 0 < 2 ^ 2044 * d := by positivity
    rw [Nat.mul_assoc] at hhuge hmax
    generalize 2 ^ 2044 * d = D at *
    omega

/-- A finite value of magnitude at most `m`. -/
def Within (m : Nat) (a : F64) : Prop := isFinite a = true ∧ f64Mag a ≤ m * unitsPerOne

theorem natAbs_f64Units (a : F64) : (f64Units a).natAbs = f64Mag a := by
  unfold f64Units
  split <;> simp

theorem f64Mag_f64OfNat {n : Nat} (hn : n < 2 ^ 53) : f64Mag (f64OfNat n) = n * unitsPerOne := by
  obtain ⟨-, hunits⟩ := f64OfNat_exact hn
  have hcast : ((n * unitsPerOne : Nat) : Int) = n * 2 ^ 1074 := by
    rw [unitsPerOne, Nat.cast_mul, Nat.cast_pow, Nat.cast_ofNat]
  rw [← natAbs_f64Units, hunits, ← hcast, Int.natAbs_natCast]

theorem within_f64OfNat {n : Nat} (hn : n < 2 ^ 53) : Within n (f64OfNat n) :=
  ⟨(f64OfNat_exact hn).1, (f64Mag_f64OfNat hn).le⟩

/-- An exact result of magnitude at most `m` rounds to one: the pattern of `m` bounds the rounding. -/
theorem within_pack_roundMag {n d m : Nat} (s : Bool) (hd : 0 < d) (hm : m < 2 ^ 53)
    (h : n ≤ m * unitsPerOne * d) : Within m (f64Pack s (roundMag n d)) := by
  have hbound : f64MagBits (f64OfNat m) < infMag := of_decide_eq_true (f64OfNat_exact hm).1
  rw [← f64Mag_f64OfNat hm] at h
  have hle : roundMag n d ≤ f64MagBits (f64OfNat m) := roundMag_le hd hbound h
  constructor
  · rw [isFinite, f64MagBits_pack_roundMag]
    exact decide_eq_true (hle.trans_lt hbound)
  · rw [← f64Mag_f64OfNat hm, f64Mag, f64Mag, f64MagBits_pack_roundMag]
    exact magUnits_strictMono.monotone hle

section Bounds
variable {a b : F64} {m k : Nat}

theorem Within.fneg (ha : Within m a) : Within m (fneg a) := by
  simpa [Within] using ha

theorem Within.fmul (ha : Within m a) (hb : Within k b) (hmk : m * k < 2 ^ 53) :
    Within (m * k) (fmul a b) := by
  obtain ⟨hfa, hma⟩ := ha
  obtain ⟨hfb, hmb⟩ := hb
  rw [fmul_of_isFinite hfa hfb]
  refine within_pack_roundMag _ unitsPerOne_pos hmk ((Nat.mul_le_mul hma hmb).trans_eq ?_)
  ring

theorem Within.fadd (ha : Within m a) (hb : Within k b) (hmk : m + k < 2 ^ 53) :
    Within (m + k) (fadd a b) := by
  obtain ⟨hfa, hma⟩ := ha
  obtain ⟨hfb, hmb⟩ := hb
  rw [fadd_of_isFinite hfa hfb]
  refine within_pack_roundMag _ Nat.one_pos hmk ?_
  have htri := Int.natAbs_add_le (f64Units a) (f64Units b)
  rw [natAbs_f64Units, natAbs_f64Units] at htri
  rw [Nat.mul_one, Nat.add_mul]
  exact htri.trans (Nat.add_le_add hma hmb)

theorem Within.fsub (ha : Within m a) (hb : Within k b) (hmk : m + k < 2 ^ 53) :
    Within (m + k) (fsub a b) := ha.fadd hb.fneg hmk

/-- A quotient by the bound of the dividend. -/
theorem Within.fdiv (ha : Within m a) (hb : isFinite b = true) (hm : f64Mag b = m * unitsPerOne)
    (hpos : 0 < m) : Within 1 (fdiv a b) := by
  obtain ⟨hfa, hma⟩ := ha
  have hb0 : 0 < f64Mag b := hm ▸ Nat.mul_pos hpos unitsPerOne_pos
  rw [fdiv_of_isFinite hfa hb hb0.ne']
  refine within_pack_roundMag _ hb0 (by decide) ?_
  rw [Nat.one_mul, Nat.mul_comm, hm]
  exact Nat.mul_le_mul_left _ hma

end Bounds

/-- The quotient both decoders start with is between 0 and 1. -/
theorem within_code_quotient (w : Word16) : Within 1 (fdiv (f64OfNat w.toNat) c65535) := by
  have hw : w.toNat ≤ 65535 := Nat.le_of_lt_succ w.isLt
  obtain ⟨hfin, hmag⟩ := within_f64OfNat (n := w.toNat) (by omega)
  have hbound : Within 65535 (f64OfNat w.toNat) := ⟨hfin, hmag.trans (Nat.mul_le_mul_right _ hw)⟩
  exact hbound.fdiv (by decide +kernel) (by decide +kernel) (by decide)

/-- R82, R98. -/
theorem isFinite_decT (w : Word16) : isFinite (decT w) = true := by
  have h175 : Within 175 c175 := ⟨by decide +kernel, by decide +kernel⟩
  have h45 : Within 45 c45 := ⟨by decide +kernel, by decide +kernel⟩
  exact (((within_code_quotient w).fmul h175 (by decide)).fsub h45 (by decide)).1

/-- R83, R98. -/
theorem isFinite_decH (w : Word16) : isFinite (decH w) = true := by
  have h100 : Within 100 c100 := ⟨by decide +kernel, by decide +kernel⟩
  exact ((within_code_quotient w).fmul h100 (by decide)).1

/-- R89, R98: an offset byte decodes to a finite value, for an LSB of magnitude at most 1. -/
theorem isFinite_offDec (b : Byte) {lsb : F64} (hlsb : Within 1 lsb) : isFinite (offDec b lsb) = true := by
  have hb : (b.extractLsb' 0 7).toNat < 2 ^ 7 := (b.extractLsb' 0 7).isLt
  have hy := (within_f64OfNat (n := (b.extractLsb' 0 7).toNat) (by omega)).fmul hlsb (by omega)
  unfold offDec
  split
  · exact hy.1
  · exact hy.fneg.1

theorem within_lsbT : Within 1 lsbT := ⟨by decide +kernel, by decide +kernel⟩

theorem within_lsbH : Within 1 lsbH := ⟨by decide +kernel, by decide +kernel⟩

end Sys2Proof.Machine
end

section
/-!
The machine invariant (R27, R32, R63, R98, R105): it holds after reset, and every step keeps it.
-/

namespace Sys2Proof.Machine

open Sys2Proof.Claims

/-- What `Inv` says of the registers other than STATUS: the last frame and the physical outputs. -/
structure RegsInv (f : RegFile) : Prop where
  outlen : f.outlen = 0 ∨ f.outlen = 2 ∨ f.outlen = 5
  frame_written : ∀ k : Fin 5, k.val < f.outlen.toNat → f.out[k].written = true
  frame_crc : f.outlen = 5 → f.out[4].val = crc8 f.out[2].val f.out[3].val
  yt_finite : f.yt.written = true → isFinite f.yt.val = true
  yh_finite : f.yh.written = true → isFinite f.yh.val = true

/-- What `Inv` says of the fault record. -/
def RecordInv (o : Option UnwrittenRecord) : Prop :=
  ∀ r, o = some r → r.sources ≠ [] ∧ ∀ x ∈ r.sources, isWritten r.regs x = false

theorem inv_iff {s : State} :
    Inv s ↔ s.regs.status ∈ statusValues ∧ RegsInv s.regs ∧ RecordInv s.unwrittenFault :=
  ⟨fun ⟨hstatus, hlen, hwritten, hcrc, hyt, hyh, hrec⟩ => ⟨hstatus, ⟨hlen, hwritten, hcrc, hyt, hyh⟩, hrec⟩,
    fun ⟨hstatus, ⟨hlen, hwritten, hcrc, hyt, hyh⟩, hrec⟩ => ⟨hstatus, hlen, hwritten, hcrc, hyt, hyh, hrec⟩⟩

theorem status_reset_mem : RegFile.reset.status ∈ statusValues := by decide

theorem regsInv_reset : RegsInv RegFile.reset :=
  ⟨by decide, by decide, by decide, by decide, by decide⟩

/-- Settles O51: no frame, no written output and no record stand after reset. -/
theorem theMachineInvariantHoldsAtReset : Obligations.TheMachineInvariantHoldsAtReset :=
  inv_iff.2 ⟨status_reset_mem, regsInv_reset, fun _ h => nomatch h⟩

theorem statusOfError_mem (e : OpError) : statusOfError e ∈ statusValues := by
  cases e with
  | crcError g => revert g; decide
  | rangeError l => revert l; decide
  | illegalOp => decide

theorem statusOk_mem : statusOk ∈ statusValues := by decide

theorem putCommand_out_written (f : RegFile) {k : Fin 5} (hk : k.val < 2) :
    (putCommand f).out[k].written = true := by
  obtain rfl | rfl : k = 0 ∨ k = 1 := by omega
  · simp [putCommand]
  · simp [putCommand]

/-- An operation that succeeds writes whole frames and finite outputs only. -/
theorem Writes.keeps_regsInv {i : Instr} {f g : RegFile} (hw : Writes i f g) (h : RegsInv f) :
    RegsInv g := by
  cases hw with
  | frmc =>
    have hne : (2 : Byte) ≠ 5 := by decide
    exact { h with
      outlen := .inr (.inl rfl)
      frame_written := fun _ hk => putCommand_out_written f hk
      frame_crc := fun h5 => absurd h5 hne }
  | frmcd =>
    exact { h with
      outlen := .inr (.inr rfl)
      frame_written := fun k _ => frameBytes_written _ _ k
      frame_crc := fun _ => rfl }
  | tdec => exact { h with yt_finite := fun _ => isFinite_decT _ }
  | hdec => exact { h with yh_finite := fun _ => isFinite_decH _ }
  | ofsdec =>
    exact { h with
      yt_finite := fun _ => isFinite_offDec _ within_lsbT
      yh_finite := fun _ => isFinite_offDec _ within_lsbH }
  | crcgen | chk1 | chk2 | chk3 | tenc | henc | thpk | ofsenc => exact { h with }

/-- R22: a host write of a register other than CTRL changes none that `Inv` speaks of. -/
theorem storeReg_engine_registers {f g : RegFile} {r : Reg} {v : RegValue} (h : storeReg f r v = some g) :
    g.status = f.status ∧ g.outlen = f.outlen ∧ g.out = f.out ∧ g.yt = f.yt ∧ g.yh = f.yh := by
  cases r <;> cases v <;> cases h <;> exact ⟨rfl, rfl, rfl, rfl, rfl⟩

theorem storeReg_keeps_regsInv {f g : RegFile} {r : Reg} {v : RegValue} (hf : storeReg f r v = some g)
    (h : RegsInv f) : RegsInv g := by
  obtain ⟨-, hlen, hout, hyt, hyh⟩ := storeReg_engine_registers hf
  obtain ⟨flen, fwritten, fcrc, fyt, fyh⟩ := h
  constructor <;> simpa only [hlen, hout, hyt, hyh]

theorem recordInv_recordAfter {s : State} (srcs : List Reg) (h : RecordInv s.unwrittenFault) :
    RecordInv (recordAfter s srcs) := by
  cases hs : s.unwrittenFault with
  | some r => rwa [recordAfter_of_recorded srcs hs, ← hs]
  | none =>
    intro r hr
    obtain ⟨hne, rfl⟩ := (recordAfter_eq_some_iff hs).1 hr
    exact ⟨hne, fun x hx => by simpa using (List.mem_filter.1 hx).2⟩

/-- Settles O52: an operation keeps the frame and the outputs, a host write changes neither, and a record
is made of unwritten sources. -/
theorem everyStepKeepsTheMachineInvariant : Obligations.EveryStepKeepsTheMachineInvariant := by
  intro s t h hstep
  obtain ⟨hstatus, hregs, hrec⟩ := inv_iff.1 h
  cases stepCase_of_step hstep with
  | idle | readUnassigned | writeUnassigned => exact h
  | reset => exact inv_iff.2 ⟨status_reset_mem, regsInv_reset, hrec⟩
  | read => exact inv_iff.2 ⟨hstatus, hregs, recordInv_recordAfter _ hrec⟩
  | write _ _ hf =>
    obtain ⟨hst, -⟩ := storeReg_engine_registers hf
    exact inv_iff.2 ⟨hst.symm ▸ hstatus, storeReg_keeps_regsInv hf hregs, hrec⟩
  | illegal => exact inv_iff.2 ⟨statusOfError_mem _, { hregs with }, hrec⟩
  | operation _ _ he =>
    obtain ⟨e, rfl⟩ | ⟨g, hw, rfl⟩ := exec_next_cases he
    · exact inv_iff.2 ⟨statusOfError_mem e, { hregs with }, recordInv_recordAfter _ hrec⟩
    · exact inv_iff.2 ⟨statusOk_mem, { hw.keeps_regsInv { hregs with } with }, recordInv_recordAfter _ hrec⟩

end Sys2Proof.Machine
end

section
/-!
What a step does to the host's side of the state (R9, R51): `pending`, `reads` and `ENC_ROUND_T`.
-/

namespace Sys2Proof.Machine

open Sys2Proof.Claims

/-- R75: an operation changes registers and the fault record, and nothing of the host's side. -/
theorem exec_keeps_host_side {i : Instr} {s t : State} (h : exec i s = .next t) :
    t.pending = s.pending ∧ t.encRoundT = s.encRoundT ∧ t.reads = s.reads := by
  rw [exec_eq_perform] at h
  cases h
  exact ⟨perform_pending _ _ s, perform_encRoundT _ _ s, perform_reads _ _ s⟩

/-- Settles O50: each case of `step` takes its access off `pending`, and only a read, of an assigned number or
of another, adds to `reads`. -/
theorem aStepTakesOneAccessInOrder : Obligations.AStepTakesOneAccessInOrder := by
  intro s t h
  cases stepCase_of_step h with
  | idle hp => simp [hp]
  | reset hp | writeUnassigned hp | write hp | illegal hp => simp [hp, stored]
  | readUnassigned hp | read hp => simp [hp]
  | operation hp _ he =>
    obtain ⟨hpending, hround, hreads⟩ := exec_keeps_host_side he
    simp [hpending, hround, hreads, hp, stored]

end Sys2Proof.Machine
end

section
/-!
The CTRL word and its three fields, decoding against encoding, and the opcode map (30_encoding.md R56 to
R59). Both directions turn on `decodeOp_eq_ok_iff`: with RSV out of the way, an operation is decoded
exactly from its own SEL and OP.
-/

namespace Sys2Proof

open Sys2Proof.Claims

/-! ### The fields of a CTRL word -/

@[simp] theorem ctrlOp_ctrlWord (k : BitVec 2) (op : BitVec 4) : ctrlOp (ctrlWord k op) = op :=
  BitVec.extractLsb'_append_eq_right

@[simp] theorem ctrlSel_ctrlWord (k : BitVec 2) (op : BitVec 4) : ctrlSel (ctrlWord k op) = k := by
  rw [ctrlSel, ctrlWord, BitVec.extractLsb'_append_eq_of_le le_rfl]
  exact BitVec.extractLsb'_append_eq_right

/-- R56: a CTRL value whose RSV is 0 is put together from its SEL and OP. -/
theorem ctrlWord_fields {v : Byte} (h : ctrlRsv v = 0) : ctrlWord (ctrlSel v) (ctrlOp v) = v := by
  calc ctrlWord (ctrlSel v) (ctrlOp v)
      = (ctrlRsv v ++ ctrlSel v) ++ ctrlOp v := by rw [ctrlWord, h]; rfl
    _ = v.extractLsb' 4 4 ++ ctrlOp v :=
        congrArg (· ++ ctrlOp v) (BitVec.extractLsb'_append_extractLsb'_eq_extractLsb' rfl)
    _ = v.extractLsb' 0 8 := BitVec.extractLsb'_append_extractLsb'_eq_extractLsb' rfl
    _ = v := BitVec.extractLsb'_eq_self

theorem ctrlWord_inj {k k' : BitVec 2} {op op' : BitVec 4} (h : ctrlWord k op = ctrlWord k' op') :
    k = k' ∧ op = op' :=
  ⟨by simpa using congrArg ctrlSel h, by simpa using congrArg ctrlOp h⟩

/-- R56: no operation's word sets a reserved bit. -/
theorem ctrlRsv_encode (i : Instr) : ctrlRsv (encode i) = 0 := by
  cases i with
  | chk1 k => exact Laws.EncodeRsvZero.chk1 k
  | tdec k => exact Laws.EncodeRsvZero.tdec k
  | hdec k => exact Laws.EncodeRsvZero.hdec k
  | tenc k => exact Laws.EncodeRsvZero.tenc k
  | henc k => exact Laws.EncodeRsvZero.henc k
  | ofsdec k => exact Laws.EncodeRsvZero.ofsdec k
  | crcgen | frmc | frmcd | chk2 | chk3 | thpk | ofsenc => rfl

/-! ### Decoding against encoding -/

theorem decode_of_rsv_zero {v : Byte} (h : ctrlRsv v = 0) : decode v = decodeOp (ctrlOp v) (ctrlSel v) :=
  if_pos h

theorem decode_of_rsv_nonzero {v : Byte} (h : ctrlRsv v ≠ 0) :
    decode v = .error (.rsvNonzero (ctrlRsv v)) := if_neg h

theorem decode_eq_ok_iff {v : Byte} {i : Instr} :
    decode v = .ok i ↔ ctrlRsv v = 0 ∧ decodeOp (ctrlOp v) (ctrlSel v) = .ok i := by
  by_cases h : ctrlRsv v = 0
  · rw [decode_of_rsv_zero h, and_iff_right h]
  · rw [decode_of_rsv_nonzero h]
    exact ⟨nofun, fun ⟨hrsv, _⟩ => absurd hrsv h⟩

theorem decodeSel_of_selOk {f : BitVec 2 → Instr} {op : BitVec 4} {k : BitVec 2} (h : selOk k = true) :
    decodeSel f op k = .ok (f k) := if_neg (bne_iff_ne.1 h)

/-- What the opcode map gives for each OP and SEL is well formed and has that OP and SEL in its word. -/
theorem encode_of_mem_decodeOp : ∀ (op : BitVec 4) (k : BitVec 2), ∀ i ∈ (decodeOp op k).toOption,
    i.wf = true ∧ encode i = ctrlWord k op := by decide

/-- R57, R58: the opcode map finds each well-formed operation under its own SEL and OP, and no other. -/
theorem decodeOp_eq_ok_iff {op : BitVec 4} {k : BitVec 2} {i : Instr} :
    decodeOp op k = .ok i ↔ i.wf = true ∧ encode i = ctrlWord k op := by
  refine ⟨fun h => encode_of_mem_decodeOp op k i (by rw [h]; rfl), fun ⟨hwf, h⟩ => ?_⟩
  cases i with
  | chk1 | tdec | hdec | tenc | henc | ofsdec =>
    obtain ⟨rfl, rfl⟩ := ctrlWord_inj h
    exact decodeSel_of_selOk hwf
  | crcgen | frmc | frmcd | chk2 | chk3 | thpk | ofsenc =>
    obtain ⟨rfl, rfl⟩ := ctrlWord_inj h
    rfl

/-- Settles O10: where RSV is 0, a CTRL value is its SEL and OP, and `encode` leaves RSV 0. -/
theorem decodeAndEncodeAgree : Obligations.DecodeAndEncodeAgree := by
  intro v i
  rw [decode_eq_ok_iff, decodeOp_eq_ok_iff]
  constructor
  · rintro ⟨hrsv, hwf, henc⟩
    exact ⟨hwf, henc.trans (ctrlWord_fields hrsv)⟩
  · rintro ⟨hwf, rfl⟩
    exact ⟨ctrlRsv_encode i, hwf, (ctrlWord_fields (ctrlRsv_encode i)).symm⟩

theorem decode_encode {i : Instr} (h : i.wf = true) : decode (encode i) = .ok i :=
  (decodeAndEncodeAgree _ i).2 ⟨h, rfl⟩

/-- Settles O11: each spelled value is the encoding of its operation. -/
theorem spelledWordsDecode : Obligations.SpelledWordsDecode :=
  ⟨decode_encode (i := .crcgen) rfl, decode_encode (i := .frmcd) rfl, decode_encode (i := .chk1 2) rfl,
    decode_encode (i := .chk3) rfl, decode_encode (i := .tdec 1) rfl, decode_encode (i := .henc 2) rfl,
    decode_encode (i := .thpk) rfl, decode_encode (i := .ofsdec 1) rfl⟩

/-! ### The opcode map -/

theorem encode_of_mem_opcodeMap : ∀ p ∈ opcodeMap, p.1.wf = true ∧ encode p.1 = p.2 := by decide

/-- R58: the table lists every well-formed operation, under its own word. -/
theorem mem_opcodeMap_iff {i : Instr} {v : Byte} :
    (i, v) ∈ opcodeMap ↔ i.wf = true ∧ encode i = v := by
  refine ⟨encode_of_mem_opcodeMap (i, v), ?_⟩
  rintro ⟨hwf, rfl⟩
  cases i with
  | chk1 k | tdec k | hdec k | tenc k | henc k | ofsdec k => revert k; decide
  | crcgen | frmc | frmcd | chk2 | chk3 | thpk | ofsenc => decide

/-! ### Rejections, in the order of R59 -/

theorem decodeOp_of_reserved : ∀ op ∈ [0x0#4, 0xE#4, 0xF#4], ∀ k,
    decodeOp op k = .error (.opReserved op) := by decide

theorem decodeOp_sel_three : ∀ op ∈ [0x4#4, 0x7#4, 0x8#4, 0x9#4, 0xA#4, 0xD#4],
    decodeOp op 3 = .error (.selIllegal op 3) := by decide

theorem decodeOp_sel_nonzero : ∀ op ∈ [0x1#4, 0x2#4, 0x3#4, 0x5#4, 0x6#4, 0xB#4, 0xC#4], ∀ k ≠ 0,
    decodeOp op k = .error (.selIllegal op k) := by decide

/-- Settles O9: the table is the encoding of the well-formed operations, and each test of R59 is a branch
of `decode`. -/
theorem decodeIsTheOpcodeMap : Obligations.DecodeIsTheOpcodeMap := by
  refine ⟨fun v i => (decodeAndEncodeAgree v i).trans mem_opcodeMap_iff.symm, rfl, by decide,
    fun v hrsv => decode_of_rsv_nonzero hrsv, fun v hrsv hop => ?_, fun v hrsv hop hsel => ?_,
    fun v hrsv hop hsel => ?_⟩
  · exact (decode_of_rsv_zero hrsv).trans (decodeOp_of_reserved _ hop _)
  · exact (decode_of_rsv_zero hrsv).trans ((congrArg _ hsel).trans (decodeOp_sel_three _ hop))
  · exact (decode_of_rsv_zero hrsv).trans (decodeOp_sel_nonzero _ hop _ hsel)

end Sys2Proof
end

section
/-!
Operation terms with SEL 3 (R57, R102), the group check CHK1 against the frame FRMCD builds (R63, R64), and
the packed threshold word (R65).
-/

namespace Sys2Proof.Machine

open Sys2Proof.Claims

/-! ### SEL 3 -/

theorem raise_illegalOp (s : State) :
    raise .illegalOp s = { s with regs := { s.regs with status := 0x06 } } := by
  rw [raise, statusOfError_illegal]

/-- Settles O13: `performSel` finds no WORD register for SEL 3. -/
theorem selThreeRaisesIllegalOp : Obligations.SelThreeRaisesIllegalOp := by
  intro s i hi
  rw [← raise_illegalOp]
  simp only [List.mem_cons, List.not_mem_nil, or_false] at hi
  obtain rfl | rfl | rfl | rfl | rfl | rfl := hi <;> rfl

/-! ### A frame received back -/

/-- R41, R43: a word is its high byte and its low byte. -/
theorem bytesToWord_highByte_lowByte (w : Word16) : bytesToWord (highByte w) (lowByte w) = w :=
  (BitVec.extractLsb'_append_extractLsb'_eq_extractLsb' rfl).trans BitVec.extractLsb'_eq_self

/-- R78: FRMCD always succeeds, and the frame is in OUT. -/
theorem out_of_exec_frmcd {s t : State} (h : exec .frmcd s = .next t) :
    t.regs.out = frameBytes s.regs.cmd.val s.regs.data.val := by
  cases h
  rfl

/-- R79: CHK1 of a valid group writes its word and nothing else. -/
theorem exec_chk1_of_groupOk {s : State} {k : BitVec 2} {i : Fin 3} (hk : wordIndex k = some i)
    (h : groupOk s.regs 0 = true) :
    exec (.chk1 k) s =
      .next (commit (putWord s.regs i (groupWord s.regs 0)) (noteReads s (sourcesOf (.chk1 k)))) := by
  rw [exec_eq_perform, perform_of_ok]
  simp [compute, selected, hk, checkGroups, firstBadGroup, h]

/-- Settles O25: the group received is the two bytes of DATA and their CRC. -/
theorem framedDataPassesTheGroupCheck : Obligations.FramedDataPassesTheGroupCheck := by
  intro s t u hs h0 h1 h2
  rw [out_of_exec_frmcd hs] at h0 h1 h2
  have hhi : groupByte u.regs 0 0 = highByte s.regs.data.val := h0
  have hlo : groupByte u.regs 0 1 = lowByte s.regs.data.val := h1
  have hcrc : groupByte u.regs 0 2 = crcOfWord s.regs.data.val := h2
  have hok : groupOk u.regs 0 = true := by simp [groupOk, hhi, hlo, hcrc, crcOfWord]
  have hword : groupWord u.regs 0 = s.regs.data.val := by
    rw [groupWord, hhi, hlo, bytesToWord_highByte_lowByte]
  exact ⟨_, exec_chk1_of_groupOk (i := 0) rfl hok, statusOk_eq, by simp [hword]⟩

/-! ### The threshold word -/

/-- The number an append stands for: the high part above the `n` low bits. -/
theorem toNat_append_eq_add {m n : Nat} (x : BitVec m) (y : BitVec n) :
    (x ++ y).toNat = x.toNat * 2 ^ n + y.toNat := by
  rw [BitVec.toNat_append, ← Nat.shiftLeft_add_eq_or_of_lt y.isLt, Nat.shiftLeft_eq]

/-- Settles O41: an append of two fields. -/
theorem thresholdWordConcatenatesTheTopBits : Obligations.ThresholdWordConcatenatesTheTopBits := by
  refine fun t h => ⟨?_, BitVec.extractLsb'_append_eq_left, BitVec.extractLsb'_append_eq_right⟩
  rw [thresholdWord, toNat_append_eq_add, BitVec.extractLsb'_toNat, BitVec.extractLsb'_toNat,
    Nat.shiftRight_eq_div_pow, Nat.shiftRight_eq_div_pow]
  omega

end Sys2Proof.Machine
end

section
/-!
The CRC function (41_crc_frames.md R71, R72): `crcShift` is linear over GF(2) and loses nothing, so `crc8` is
a linear function of its two bytes plus a constant, and one to one in each byte.
-/

namespace Sys2Proof.Machine

open Sys2Proof.Claims

/-! ### The reference algorithm -/

theorem crcShift_eq_masked (a : Byte) :
    crcShift a = if a.getLsbD 7 = true then ((a <<< 1) &&& 0xFF) ^^^ 0x31 else (a <<< 1) &&& 0xFF := by
  have hmask : (a <<< 1) &&& (0xFF : Byte) = a <<< 1 := BitVec.and_allOnes
  rw [hmask, crcShift]

/-- A loop that ignores its counter is as many shifts as the counter has values. -/
theorem foldl_crcShift (l : List Nat) (a : Byte) :
    l.foldl (fun a _ => crcShift a) a = crcShifts l.length a := by
  induction l generalizing a with
  | nil => rfl
  | cons _ l ih => exact ih (crcShift a)

/-- Settles O14: the masked shift is `crcShift`, and a byte takes eight of them. -/
theorem crcEightIsTheReferenceAlgorithm : Obligations.CrcEightIsTheReferenceAlgorithm := by
  intro b1 b0
  simp only [← crcShift_eq_masked, foldl_crcShift]
  rfl

/-! ### Linear maps over GF(2) -/

/-- `f` commutes with XOR. -/
def XorAdditive {m n : Nat} (f : BitVec m → BitVec n) : Prop := ∀ a b, f (a ^^^ b) = f a ^^^ f b

/-- The XOR of a list of words. -/
def xorAll {w : Nat} (l : List (BitVec w)) : BitVec w := l.foldr (· ^^^ ·) 0

/-- The places of the bits set in `e`. -/
def setBits {w : Nat} (e : BitVec w) : List Nat := (List.range w).filter (fun i => e.getLsbD i)

theorem mem_setBits {w i : Nat} {e : BitVec w} : i ∈ setBits e ↔ i < w ∧ e.getLsbD i = true := by
  rw [setBits, List.mem_filter, List.mem_range]

theorem setBits_nodup {w : Nat} (e : BitVec w) : (setBits e).Nodup := List.nodup_range.filter _

theorem getLsbD_xorAll_twoPow {w k : Nat} (hk : k < w) {l : List Nat} (hl : l.Nodup) :
    (xorAll (l.map (BitVec.twoPow w))).getLsbD k = decide (k ∈ l) := by
  induction l with
  | nil => simp [xorAll]
  | cons i l ih =>
    obtain ⟨hi, hl⟩ := List.nodup_cons.1 hl
    have hstep : (xorAll ((i :: l).map (BitVec.twoPow w))).getLsbD k =
        ((BitVec.twoPow w i).getLsbD k ^^ decide (k ∈ l)) := by
      rw [← ih hl, ← BitVec.getLsbD_xor]
      rfl
    rw [hstep, BitVec.getLsbD_twoPow]
    by_cases hik : i = k
    · subst hik
      simp [hi, hk]
    · simp [hik, Ne.symm hik]

/-- A word is the XOR of its set bits. -/
theorem xorAll_setBits {w : Nat} (e : BitVec w) : xorAll ((setBits e).map (BitVec.twoPow w)) = e := by
  refine BitVec.eq_of_getLsbD_eq fun k hk => ?_
  rw [getLsbD_xorAll_twoPow hk (setBits_nodup e), Bool.eq_iff_iff, decide_eq_true_iff, mem_setBits,
    and_iff_right hk]

namespace XorAdditive

variable {m n : Nat} {f g : BitVec m → BitVec n}

theorem map_zero (hf : XorAdditive f) : f 0 = 0 := by
  have h := hf 0 0
  rwa [BitVec.xor_self, BitVec.xor_self] at h

theorem map_xorAll (hf : XorAdditive f) (l : List (BitVec m)) : f (xorAll l) = xorAll (l.map f) := by
  induction l with
  | nil => exact hf.map_zero
  | cons a l ih => exact (hf a (xorAll l)).trans (congrArg (f a ^^^ ·) ih)

/-- A linear map is known from its values at the single bits. -/
theorem eq_xorAll (hf : XorAdditive f) (e : BitVec m) :
    f e = xorAll ((setBits e).map fun i => f (BitVec.twoPow m i)) := by
  conv_lhs => rw [← xorAll_setBits e, hf.map_xorAll, List.map_map]
  rfl

theorem eq_of_twoPow (hf : XorAdditive f) (hg : XorAdditive g)
    (h : ∀ i < m, f (BitVec.twoPow m i) = g (BitVec.twoPow m i)) (e : BitVec m) : f e = g e := by
  rw [hf.eq_xorAll, hg.eq_xorAll]
  exact congrArg xorAll (List.map_congr_left fun i hi => h i (mem_setBits.1 hi).1)

theorem injective (hf : XorAdditive f) (h : ∀ a, f a = 0 → a = 0) : Function.Injective f := by
  intro a b hab
  have hzero : f (a ^^^ b) = 0 := by
    rw [hf, hab]
    exact BitVec.xor_self
  exact BitVec.xor_eq_zero_iff.1 (h _ hzero)

end XorAdditive

/-! ### The shift is linear and injective -/

theorem crcShift_eq_xor (a : Byte) :
    crcShift a = a <<< 1 ^^^ (if a.getLsbD 7 = true then 0x31 else 0) := by
  unfold crcShift
  split <;> simp

theorem crcShift_xorAdditive : XorAdditive crcShift := by
  have hfeed : ∀ p q : Bool, (if (p ^^ q) = true then (0x31 : Byte) else 0) =
      (if p = true then 0x31 else 0) ^^^ (if q = true then 0x31 else 0) := by decide
  intro a b
  simp only [crcShift_eq_xor, BitVec.getLsbD_xor, BitVec.shiftLeft_xor_distrib, hfeed]
  ac_rfl

theorem crcShifts_xorAdditive (n : Nat) : XorAdditive (crcShifts n) := by
  induction n with
  | zero => exact fun _ _ => rfl
  | succ n ih =>
    intro a b
    rw [crcShifts, crcShift_xorAdditive, ih]
    rfl

theorem crcShift_injective : Function.Injective crcShift :=
  crcShift_xorAdditive.injective (by decide +kernel)

theorem crcShifts_injective (n : Nat) : Function.Injective (crcShifts n) := by
  induction n with
  | zero => exact fun _ _ h => h
  | succ n ih => exact ih.comp crcShift_injective

/-! ### `crc8` is affine, and one to one in each byte -/

/-- The linear part of `crc8` (R72): the CRC without its initial value. -/
def crcLinear (b1 b0 : Byte) : Byte := crcShifts 8 (crcShifts 8 b1 ^^^ b0)

theorem crcLinear_xor (a1 a0 b1 b0 : Byte) :
    crcLinear (a1 ^^^ b1) (a0 ^^^ b0) = crcLinear a1 a0 ^^^ crcLinear b1 b0 := by
  simp only [crcLinear, crcShifts_xorAdditive 8 _ _]
  ac_rfl

theorem crc8_zero : crc8 0x00 0x00 = 0x81 := by decide +kernel

theorem crc8_eq_crcLinear (b1 b0 : Byte) : crc8 b1 b0 = crcLinear b1 b0 ^^^ crc8 0x00 0x00 := by
  have hconst : crcShifts 8 (crcShifts 8 0xFF) = crc8 0x00 0x00 := by decide +kernel
  calc crc8 b1 b0
      = crcShifts 8 (crcShifts 8 (0xFF ^^^ b1) ^^^ b0) := rfl
    _ = crcShifts 8 (crcShifts 8 0xFF) ^^^ crcShifts 8 (crcShifts 8 b1) ^^^ crcShifts 8 b0 := by
        rw [crcShifts_xorAdditive, crcShifts_xorAdditive, crcShifts_xorAdditive]
    _ = crcLinear b1 b0 ^^^ crc8 0x00 0x00 := by
        rw [hconst, BitVec.xor_assoc, ← crcShifts_xorAdditive, BitVec.xor_comm, crcLinear]

/-- Settles O15: `crc8` is linear but for the constant its initial value leaves. -/
theorem crcEightIsAffine : Obligations.CrcEightIsAffine := by
  refine ⟨crc8_zero, fun a1 a0 b1 b0 => ?_⟩
  generalize hc : crc8 0x00 0x00 = c
  have hlin (b1 b0 : Byte) : crc8 b1 b0 = crcLinear b1 b0 ^^^ c := hc ▸ crc8_eq_crcLinear b1 b0
  calc crc8 (a1 ^^^ b1) (a0 ^^^ b0)
      = crcLinear a1 a0 ^^^ crcLinear b1 b0 ^^^ (c ^^^ c ^^^ c) := by simp [hlin, crcLinear_xor]
    _ = (crcLinear a1 a0 ^^^ c) ^^^ (crcLinear b1 b0 ^^^ c) ^^^ c := by ac_rfl
    _ = crc8 a1 a0 ^^^ crc8 b1 b0 ^^^ c := by rw [hlin, hlin]

theorem crcByte_injective_byte (acc : Byte) : Function.Injective (crcByte acc) :=
  fun _ _ h => (BitVec.xor_right_inj acc).1 (crcShifts_injective 8 h)

theorem crcByte_injective_acc (byte : Byte) : Function.Injective (crcByte · byte) :=
  fun _ _ h => (BitVec.xor_left_inj byte).1 (crcShifts_injective 8 h)

/-- Settles O16: each byte enters by an XOR and eight injective shifts, and there are as many bytes as CRCs. -/
theorem crcEightIsABijectionInEachByte : Obligations.CrcEightIsABijectionInEachByte := by
  refine ⟨fun hi c => ?_, fun lo c => ?_⟩
  · have hinj : Function.Injective (crc8 hi) := crcByte_injective_byte _
    exact (Finite.injective_iff_bijective.1 hinj).existsUnique c
  · have hinj : Function.Injective (crc8 · lo) :=
      (crcByte_injective_acc lo).comp (crcByte_injective_byte 0xFF)
    exact (Finite.injective_iff_bijective.1 hinj).existsUnique c

end Sys2Proof.Machine
end

section
/-!
Errors in a 3-byte group (41_crc_frames.md R72, 30_encoding.md R64). Flipped bits change a group's check by
an amount, the syndrome, that depends on the flipped bits alone; the group passes only where it is 0.
-/

namespace Sys2Proof.Machine

open Sys2Proof.Claims

/-! ### The syndrome -/

/-- The remainder of a group's 24 bits, read in wire order as a polynomial, modulo the CRC's. -/
def syndrome (e : BitVec 24) : Byte :=
  crcLinear (e.extractLsb' 16 8) (e.extractLsb' 8 8) ^^^ e.extractLsb' 0 8

theorem syndrome_xorAdditive : XorAdditive syndrome := by
  intro a b
  simp only [syndrome, BitVec.extractLsb'_xor, crcLinear_xor]
  ac_rfl

theorem groupValid_iff_syndrome (g : BitVec 24) : groupValid g ↔ syndrome g = crc8 0x00 0x00 := by
  rw [groupValid, crc8_eq_crcLinear, syndrome, ← BitVec.xor_eq_zero_iff, BitVec.xor_assoc,
    BitVec.xor_comm (crc8 0x00 0x00), ← BitVec.xor_assoc, BitVec.xor_eq_zero_iff]

/-- R72: an error turns a valid group into a valid one only where its syndrome is 0. -/
theorem syndrome_eq_zero_of_groupValid {g e : BitVec 24} (hg : groupValid g)
    (he : groupValid (g ^^^ e)) : syndrome e = 0 := by
  rw [groupValid_iff_syndrome] at hg he
  rw [syndrome_xorAdditive, hg] at he
  simpa using he

/-- The bit at place `i` is `x ^ i`. -/
theorem syndrome_twoPow : ∀ i < 24, syndrome (BitVec.twoPow 24 i) = crcShifts i 1 := by decide +kernel

/-! ### Bursts -/

/-- A burst at place `j` is its 8 bits times `x ^ j`. -/
theorem syndrome_burst {j : Nat} (hj : j < 17) (b : Byte) :
    syndrome (b.zeroExtend 24 <<< j) = crcShifts j b := by
  have hlin : XorAdditive fun b : Byte => syndrome (b.zeroExtend 24 <<< j) := fun a b => by
    simp only [BitVec.zeroExtend, BitVec.setWidth_xor, BitVec.shiftLeft_xor_distrib, syndrome_xorAdditive _ _]
  have hbits : ∀ j < 17, ∀ i < 8,
      syndrome ((BitVec.twoPow 8 i).zeroExtend 24 <<< j) = crcShifts j (BitVec.twoPow 8 i) := by decide +kernel
  exact hlin.eq_of_twoPow (crcShifts_xorAdditive j) (hbits j hj) b

/-- R72: shifts lose nothing, so only the empty burst has syndrome 0. -/
theorem burst_eq_zero {j : Nat} (hj : j < 17) {b : Byte} (h : syndrome (b.zeroExtend 24 <<< j) = 0) :
    b = 0 := by
  rw [syndrome_burst hj] at h
  exact crcShifts_injective j (h.trans (crcShifts_xorAdditive j).map_zero.symm)

/-! ### One to three flipped bits -/

/-- Whether an odd number of a byte's bits is set. -/
def parity (a : Byte) : Bool := (List.range 8).foldr (fun i p => a.getLsbD i ^^ p) false

theorem parity_xor (a b : Byte) : parity (a ^^^ b) = (parity a ^^ parity b) := by
  unfold parity
  induction List.range 8 with
  | nil => rfl
  | cons i l ih =>
    rw [List.foldr_cons, ih, BitVec.getLsbD_xor, List.foldr_cons, List.foldr_cons]
    simp only [Bool.xor_assoc, Bool.xor_left_comm]

/-- `x + 1` divides the CRC's polynomial: a shift keeps the parity. -/
theorem parity_crcShift : ∀ a, parity (crcShift a) = parity a := by decide +kernel

theorem parity_crcShifts (n : Nat) (a : Byte) : parity (crcShifts n a) = parity a := by
  induction n generalizing a with
  | zero => rfl
  | succ n ih => exact (ih (crcShift a)).trans (parity_crcShift a)

/-- The powers of `x` at a group's 24 places are distinct modulo the CRC's polynomial. -/
theorem crcShifts_one_injective : ∀ i < 24, ∀ j < 24, crcShifts i 1 = crcShifts j 1 → i = j := by decide +kernel

/-- R72: one or three flipped bits leave an odd syndrome, and two flipped bits cancel only at one place. -/
theorem setBits_eq_nil_of_syndrome {e : BitVec 24} (hlen : (setBits e).length ≤ 3) (h : syndrome e = 0) :
    setBits e = [] := by
  have hbits : xorAll ((setBits e).map fun i => crcShifts i 1) = 0 := by
    rw [← h, syndrome_xorAdditive.eq_xorAll]
    exact congrArg xorAll (List.map_congr_left fun i hi => (syndrome_twoPow i (mem_setBits.1 hi).1).symm)
  have hplace : ∀ i ∈ setBits e, i < 24 := fun i hi => (mem_setBits.1 hi).1
  have hnodup := setBits_nodup e
  generalize setBits e = l at *
  have hone (i : Nat) : parity (crcShifts i 1#8) = true := (parity_crcShifts i 1).trans (by decide)
  have hzero : parity 0#8 = false := by decide
  match l with
  | [] => rfl
  | [i] => simpa [xorAll, parity_xor, hone, hzero] using congrArg parity hbits
  | [i, j] =>
    have hij : crcShifts i 1 = crcShifts j 1 := by simpa [xorAll] using hbits
    have hplaces := crcShifts_one_injective i (hplace i (by simp)) j (hplace j (by simp)) hij
    simp [hplaces] at hnodup
  | [i, j, k] => simpa [xorAll, parity_xor, hone, hzero] using congrArg parity hbits

/-- Settles O17: an error that passes has syndrome 0, which no small error but the empty one has. -/
theorem smallErrorsNeverPassTheGroupCheck : Obligations.SmallErrorsNeverPassTheGroupCheck := by
  intro g e hg hne hsmall he
  have hsyn := syndrome_eq_zero_of_groupValid hg he
  obtain hcount | ⟨b, j, rfl⟩ := hsmall
  · rw [List.countP_eq_length_filter] at hcount
    have hnil := setBits_eq_nil_of_syndrome hcount hsyn
    have hzero := xorAll_setBits e
    rw [hnil] at hzero
    exact hne hzero.symm
  · obtain rfl := burst_eq_zero j.isLt hsyn
    exact hne (by simp)

end Sys2Proof.Machine
end

section
/-!
What an operation's rule asks, whatever the operation (R59, R75, R102, R105). `PerformsAs` needs only its CTRL
value, its sources and the registers its frame leaves; `IllegalBut` is read off the opcode map.
-/

namespace Sys2Proof.Machine

open Sys2Proof.Claims

/-- R75: the frame changes the registers and the fault record only. -/
theorem perform_eq (srcs : List Reg) (c : RegFile → Except OpError RegFile) (s : State) :
    perform srcs c s = { s with regs := (perform srcs c s).regs, unwrittenFault := recordAfter s srcs } := by
  obtain ⟨e, -, h⟩ | ⟨f, -, h⟩ := perform_cases srcs c s <;> rw [h] <;> rfl

section Rule
variable {i : Instr} {v : Byte} {srcs : List Reg} {result : State → RegFile}

theorem exec_of_regs (hsrc : sourcesOf i = srcs)
    (h : ∀ s, (perform srcs (compute s.encRoundT i) s).regs = result s) (s : State) :
    exec i s = .next { s with regs := result s, unwrittenFault := record s srcs } := by
  rw [exec_eq_perform, hsrc, perform_eq, h, record_eq_recordAfter]

/-- An operation's rule, from the registers its frame leaves (R75, R105). -/
theorem performsAs_of_regs (hd : decode v = .ok i) (hsrc : sourcesOf i = srcs)
    (h : ∀ s, (perform srcs (compute s.encRoundT i) s).regs = result s) :
    PerformsAs i v srcs result := by
  refine ⟨exec_of_regs hsrc h, fun s rest hp => ?_⟩
  have hstep := (step_write_ctrl hp).trans
    ((startOperation_of_ok hd _).trans (exec_of_regs hsrc h (stored s v rest)))
  refine ⟨hstep, fun hs hne => ?_, fun hs hnil => ?_⟩
  · refine strictStep_of_next_recorded hs hstep ((record_eq_recordAfter _ _).trans ?_)
    exact (recordAfter_stored_eq_some_iff hs).2 ⟨hne, rfl⟩
  · have hclean : recordAfter (stored s v rest) srcs = none :=
      Option.eq_none_iff_forall_ne_some.2 fun _ hx =>
        absurd hnil ((recordAfter_stored_eq_some_iff hs).1 hx).1
    rw [hstep]
    exact strictStep_of_next hs hstep ((record_eq_recordAfter _ _).trans hclean)

/-- R59, R102: a CTRL value that the opcode map does not list under its OP is illegal. -/
theorem illegalBut_of_opcodeMap {op : BitVec 4} {legal : List Byte}
    (h : ∀ p ∈ opcodeMap, ctrlOp p.2 = op → p.2 ∈ legal) : IllegalBut op legal := by
  intro s v rest hp hop hv
  cases hd : decode v with
  | ok i =>
    have hmem : (i, v) ∈ opcodeMap := mem_opcodeMap_iff.2 ((decodeAndEncodeAgree v i).1 hd)
    exact absurd (h (i, v) hmem hop) hv
  | error x => rw [step_write_ctrl hp, startOperation_of_error hd, raise_illegalOp]; rfl

end Rule

end Sys2Proof.Machine
end

section
/-!
The CRC and frame operations (41_crc_frames.md R74, R76 to R81): each is its sources, its destinations and the
CTRL values the opcode map lists for it. A check is settled by its lowest bad group.
-/

namespace Sys2Proof.Machine

open Sys2Proof.Claims

/-! ### CRCGEN, FRMC and FRMCD -/

/-- Settles O18: CRCGEN's one destination is CRC. -/
theorem crcgenFollowsItsRule : Obligations.CrcgenFollowsItsRule :=
  ⟨performsAs_of_regs (decode_encode (i := .crcgen) rfl) rfl fun _ => rfl,
    illegalBut_of_opcodeMap (by decide), by decide +kernel⟩

/-- R62, R77: the first two bytes of OUT are written, the others keep their values and marks. -/
theorem putCommand_out (f : RegFile) : (putCommand f).out =
    #v[.of (highByte f.cmd.val), .of (lowByte f.cmd.val), f.out[2], f.out[3], f.out[4]] := by
  ext k hk
  interval_cases k <;> simp [putCommand]

/-- Settles O19: FRMC's destinations are OUTLEN and the first two bytes of OUT. -/
theorem frmcFollowsItsRule : Obligations.FrmcFollowsItsRule :=
  ⟨performsAs_of_regs (decode_encode (i := .frmc) rfl) rfl fun s =>
      congrArg (fun v => { s.regs with out := v, outlen := 2, status := 0x01 }) (putCommand_out s.regs),
    illegalBut_of_opcodeMap (by decide)⟩

/-- Settles O20: FRMCD writes the whole frame, its CRC and its length. -/
theorem frmcdFollowsItsRule : Obligations.FrmcdFollowsItsRule :=
  ⟨performsAs_of_regs (decode_encode (i := .frmcd) rfl) rfl fun _ => rfl,
    illegalBut_of_opcodeMap (by decide), by decide +kernel⟩

/-! ### The lowest bad group -/

theorem firstBadGroup_of_ok {f : RegFile} {g : Fin 3} (gs : List (Fin 3)) (h : groupOk f g = true) :
    firstBadGroup f (g :: gs) = firstBadGroup f gs := if_pos h

theorem firstBadGroup_of_bad {f : RegFile} {g : Fin 3} (gs : List (Fin 3)) (h : groupOk f g = false) :
    firstBadGroup f (g :: gs) = some g := if_neg (by simp [h])

/-- R74: groups checked in rising order report the lowest bad one. -/
theorem firstBadGroup_eq_lowest {f : RegFile} {g : Fin 3} {gs : List (Fin 3)} (hsort : gs.Pairwise (· < ·))
    (hmem : g ∈ gs) (hbad : groupOk f g = false) (hlow : ∀ h < g, groupOk f h = true) :
    firstBadGroup f gs = some g := by
  induction gs with
  | nil => cases hmem
  | cons h gs ih =>
    obtain ⟨hlt, hsort⟩ := List.pairwise_cons.1 hsort
    obtain rfl | hmem := List.mem_cons.1 hmem
    · exact firstBadGroup_of_bad gs hbad
    · rw [firstBadGroup_of_ok gs (hlow h (hlt g hmem)), ih hsort hmem]

/-! ### `grpok` over the bytes IN0 to IN8 (R33, R73) -/

theorem groupOk_zero_iff {f : RegFile} :
    groupOk f 0 = true ↔ crc8 (inByte f 0) (inByte f 1) = inByte f 2 := beq_iff_eq

theorem groupOk_one_iff {f : RegFile} :
    groupOk f 1 = true ↔ crc8 (inByte f 3) (inByte f 4) = inByte f 5 := beq_iff_eq

theorem groupOk_two_iff {f : RegFile} :
    groupOk f 2 = true ↔ crc8 (inByte f 6) (inByte f 7) = inByte f 8 := beq_iff_eq

/-! ### What a check writes -/

section Check
variable {srcs : List Reg} {c : RegFile → Except OpError RegFile} {gs : List (Fin 3)} {s : State}

/-- R74: a check that finds a bad group writes STATUS alone. -/
theorem regs_perform_of_badGroup {g : Fin 3} {f : RegFile} (hc : c s.regs = checkGroups gs s.regs f)
    (h : firstBadGroup s.regs gs = some g) :
    (perform srcs c s).regs = { s.regs with status := BitVec.ofNat 8 (16 * g.val + 2) } := by
  rw [← statusOfError_crc, perform_of_error (e := .crcError g) (by rw [hc, checkGroups, h])]
  rfl

/-- R74: a check that finds none writes what it is given to write. -/
theorem regs_perform_of_noBadGroup {f : RegFile} (hc : c s.regs = checkGroups gs s.regs f)
    (h : firstBadGroup s.regs gs = none) :
    (perform srcs c s).regs = { f with status := 0x01 } := by
  rw [perform_of_ok (f := f) (by rw [hc, checkGroups, h])]
  rfl

end Check

/-! ### CHK1, CHK2 and CHK3 -/

theorem sourcesOf_chk1_ofNat : ∀ k : Fin 3,
    sourcesOf (.chk1 (BitVec.ofNat 2 k.val)) = [.inb 0, .inb 1, .inb 2] := by decide

theorem decode_chk1 : ∀ k : Fin 3,
    decode (BitVec.ofNat 8 (0x04 + 16 * k.val)) = .ok (.chk1 (BitVec.ofNat 2 k.val)) := by decide

theorem compute_chk1 (r : Rounding) (k : Fin 3) (f : RegFile) :
    compute r (.chk1 (BitVec.ofNat 2 k.val)) f = checkGroups [0] f (putWord f k (groupWord f 0)) := by
  rw [compute, selected, wordIndex_ofNat]

/-- Settles O21: whatever k is, CHK1 checks group 0. -/
theorem chkOneFollowsItsRule : Obligations.ChkOneFollowsItsRule := by
  refine ⟨fun k => performsAs_of_regs (decode_chk1 k) (sourcesOf_chk1_ofNat k) fun s => ?_,
    illegalBut_of_opcodeMap (by decide), by decide +kernel⟩
  simp only [← groupOk_zero_iff]
  cases h0 : groupOk s.regs 0 with
  | true => exact regs_perform_of_noBadGroup (compute_chk1 _ k _) (firstBadGroup_of_ok [] h0)
  | false => exact regs_perform_of_badGroup (compute_chk1 _ k _) (firstBadGroup_of_bad [] h0)

theorem compute_chk2 (r : Rounding) (f : RegFile) : compute r .chk2 f =
    checkGroups [0, 1] f (putWord (putWord f 0 (groupWord f 0)) 1 (groupWord f 1)) := rfl

theorem putWord_two_word (f : RegFile) (u v : Word16) :
    (putWord (putWord f 0 u) 1 v).word = #v[.of u, .of v, f.word[2]] := by
  ext k hk
  interval_cases k <;> simp

/-- Settles O22, group by group. -/
theorem chkTwoFollowsItsRule : Obligations.ChkTwoFollowsItsRule := by
  refine ⟨performsAs_of_regs (decode_encode (i := .chk2) rfl) rfl fun s => ?_,
    illegalBut_of_opcodeMap (by decide), by decide +kernel⟩
  simp only [ne_eq, ← groupOk_zero_iff, ← groupOk_one_iff]
  have hc := compute_chk2 s.encRoundT s.regs
  cases h0 : groupOk s.regs 0 with
  | false => exact regs_perform_of_badGroup hc (firstBadGroup_of_bad _ h0)
  | true =>
    have hfirst := firstBadGroup_of_ok [1] h0
    cases h1 : groupOk s.regs 1 with
    | false => exact regs_perform_of_badGroup hc (hfirst.trans (firstBadGroup_of_bad _ h1))
    | true =>
      refine (regs_perform_of_noBadGroup hc (hfirst.trans (firstBadGroup_of_ok _ h1))).trans ?_
      exact congrArg (fun v => { s.regs with word := v, status := 0x01 }) (putWord_two_word ..)

theorem compute_chk3 (r : Rounding) (f : RegFile) : compute r .chk3 f =
    checkGroups [0, 1, 2] f
      (putWord (putWord (putWord f 0 (groupWord f 0)) 1 (groupWord f 1)) 2 (groupWord f 2)) := rfl

theorem putWord_three_word (f : RegFile) (u v w : Word16) :
    (putWord (putWord (putWord f 0 u) 1 v) 2 w).word = #v[.of u, .of v, .of w] := by
  ext k hk
  interval_cases k <;> simp

/-- Settles O23, group by group. -/
theorem chkThreeFollowsItsRule : Obligations.ChkThreeFollowsItsRule := by
  refine ⟨performsAs_of_regs (decode_encode (i := .chk3) rfl) rfl fun s => ?_,
    illegalBut_of_opcodeMap (by decide), by decide +kernel⟩
  simp only [ne_eq, ← groupOk_zero_iff, ← groupOk_one_iff, ← groupOk_two_iff]
  have hc := compute_chk3 s.encRoundT s.regs
  cases h0 : groupOk s.regs 0 with
  | false => exact regs_perform_of_badGroup hc (firstBadGroup_of_bad _ h0)
  | true =>
    have hfirst := firstBadGroup_of_ok [1, 2] h0
    cases h1 : groupOk s.regs 1 with
    | false => exact regs_perform_of_badGroup hc (hfirst.trans (firstBadGroup_of_bad _ h1))
    | true =>
      have hsecond := hfirst.trans (firstBadGroup_of_ok [2] h1)
      cases h2 : groupOk s.regs 2 with
      | false => exact regs_perform_of_badGroup hc (hsecond.trans (firstBadGroup_of_bad _ h2))
      | true =>
        refine (regs_perform_of_noBadGroup hc (hsecond.trans (firstBadGroup_of_ok _ h2))).trans ?_
        exact congrArg (fun v => { s.regs with word := v, status := 0x01 }) (putWord_three_word ..)

/-! ### Any check with a bad group -/

/-- R74: each check looks at its groups in rising order, from group 0 on. -/
theorem compute_of_check :
    ∀ p ∈ [(Instr.chk1 0, 1), (.chk1 1, 1), (.chk1 2, 1), (.chk2, 2), (.chk3, 3)],
      ∃ gs : List (Fin 3), gs.Pairwise (· < ·) ∧ (∀ g : Fin 3, g.val < p.2 → g ∈ gs) ∧
        ∀ r f, ∃ f', compute r p.1 f = checkGroups gs f f' := by
  simp only [List.forall_mem_cons]
  refine ⟨?_, ?_, ?_, ?_, ?_, by simp⟩
  · exact ⟨[0], by decide, by decide, fun r f => ⟨_, compute_chk1 r 0 f⟩⟩
  · exact ⟨[0], by decide, by decide, fun r f => ⟨_, compute_chk1 r 1 f⟩⟩
  · exact ⟨[0], by decide, by decide, fun r f => ⟨_, compute_chk1 r 2 f⟩⟩
  · exact ⟨[0, 1], by decide, by decide, fun r f => ⟨_, compute_chk2 r f⟩⟩
  · exact ⟨[0, 1, 2], by decide, by decide, fun r f => ⟨_, compute_chk3 r f⟩⟩

/-- Settles O24: the lowest bad group is the one `checkGroups` raises. -/
theorem anyBadGroupInvalidatesTheWholeCheck : Obligations.AnyBadGroupInvalidatesTheWholeCheck := by
  intro s p hp g hg hbad hlow
  obtain ⟨gs, hsort, hmem, hcompute⟩ := compute_of_check p hp
  obtain ⟨f, hc⟩ := hcompute s.encRoundT s.regs
  exact ⟨_, exec_eq_perform p.1 s,
    regs_perform_of_badGroup hc (firstBadGroup_eq_lowest hsort (hmem g hg) hbad hlow)⟩

end Sys2Proof.Machine
end

section
/-!
The conversion operations (42_conversion.md R91 to R97). The statements write the converter's functions out
once more, from the rules; each is the model's own function, and an operation is then its sources, its
destinations and the lane it reports.
-/

namespace Sys2Proof.Machine

open Sys2Proof.Claims

/-! ### The functions the statements spell out -/

theorem tempOf_eq_decT (r : Word16) : tempOf r = decT r := rfl

theorem humOf_eq_decH (r : Word16) : humOf r = decH r := rfl

theorem codeOf_eq_toCode (r : Rounding) (q : F64) : codeOf r q = toCode r q := by
  unfold codeOf toCode
  cases isInf q <;> simp

/-- R84. -/
theorem tempCode_eq_encT (r : Rounding) (t : F64) : tempCode r t = encT r t := by
  rw [tempCode, codeOf_eq_toCode]
  rfl

/-- R85. -/
theorem humCode_eq_encH (h : F64) : humCode h = encH h := by
  rw [humCode, codeOf_eq_toCode]
  rfl

theorem f64Sign_f64NaN : f64Sign f64NaN = false := by decide +kernel

/-- `|v| / lsb` never has the sign bit set. -/
theorem f64Sign_fdiv_fabs (v : F64) {lsb : F64} (hlsb : f64Sign lsb = false) :
    f64Sign (fdiv (fabs v) lsb) = false := by
  have hsign : (f64Sign (fabs v) != f64Sign lsb) = false := by rw [f64Sign_fabs, hlsb]; rfl
  unfold fdiv
  rw [hsign]
  split_ifs
  · exact f64Sign_f64NaN
  · exact f64Sign_f64NaN
  · exact f64Sign_pack _ _
  · exact f64Sign_pack _ _
  · exact f64Sign_f64NaN
  · exact f64Sign_pack _ _
  · exact f64Sign_pack _ _

theorem roundInt_of_nonneg (r : Rounding) {q : F64} (hq : f64Sign q = false) :
    roundInt r q = roundAbs r q := by
  simp [roundInt, hq]

/-- R88, for an LSB without sign. -/
theorem offsetByte_eq_offEnc (v : F64) {lsb : F64} (hlsb : f64Sign lsb = false) :
    offsetByte v lsb = offEnc v lsb := by
  have hround := roundInt_of_nonneg .halfAway (f64Sign_fdiv_fabs v hlsb)
  have hcast (m : Nat) : (127 : Int) < m ↔ 127 < m := by omega
  have hint (m : Nat) : BitVec.ofInt 7 (m : Int) = BitVec.ofNat 7 m := BitVec.ofInt_natCast ..
  simp only [offsetByte, offEnc, offByte, hround, hint, hcast]
  cases isNaN v <;> cases isInf (fdiv (fabs v) lsb) <;> simp

theorem offsetByte_lsbT (v : F64) : offsetByte v 0x3FC5E00000000000 = offEnc v lsbT :=
  offsetByte_eq_offEnc v (by decide)

theorem offsetByte_lsbH (v : F64) : offsetByte v 0x3FC9000000000000 = offEnc v lsbH :=
  offsetByte_eq_offEnc v (by decide)

/-- R89. -/
theorem offsetOf_eq_offDec (b : Byte) (lsb : F64) : offsetOf b lsb = offDec b lsb := by
  rw [offDec, BitVec.extractLsb'_toNat]
  rfl

/-! ### What a conversion leaves in the registers -/

section Regs
variable {srcs : List Reg} {c : RegFile → Except OpError RegFile} {s : State}

/-- R75: a computation that succeeds is written, and STATUS is 0x01. -/
theorem regs_perform_of_ok {f : RegFile} (h : c s.regs = .ok f) :
    (perform srcs c s).regs = { f with status := 0x01 } := by
  rw [perform_of_ok h]
  rfl

/-- R104: a lane out of range writes STATUS alone. -/
theorem regs_perform_of_rangeError {lane : Fin 2} (h : c s.regs = .error (.rangeError lane)) :
    (perform srcs c s).regs = { s.regs with status := BitVec.ofNat 8 (16 * lane.val + 4) } := by
  rw [← statusOfError_range, perform_of_error h]
  rfl

end Regs

/-! Lane 0 is reported before lane 1 (R95, R107). -/

section Lanes
variable {α β γ : Type} {t : Option α} {h : Option β} {a : α} {b : β}

theorem twoLanes_of_none (ht : t = none) (h : Option β) (pack : α → β → γ) :
    twoLanes t h pack = .error (.rangeError 0) := by
  subst ht
  rfl

theorem twoLanes_of_some_none (ht : t = some a) (hh : h = none) (pack : α → β → γ) :
    twoLanes t h pack = .error (.rangeError 1) := by
  subst ht hh
  rfl

theorem twoLanes_of_some (ht : t = some a) (hh : h = some b) (pack : α → β → γ) :
    twoLanes t h pack = .ok (pack a b) := by
  subst ht hh
  rfl

end Lanes


/-- R57: the computation of an operation whose SEL names `WORD[k]`. -/
theorem selected_ofNat (k : Fin 3) (c : Fin 3 → RegFile → Except OpError RegFile) (f : RegFile) :
    selected (BitVec.ofNat 2 k.val) c f = c k f := by
  rw [selected, wordIndex_ofNat]

/-- R57, R58: the CTRL value of an operation with SEL 0, 1 or 2. -/
theorem decode_sel {i : BitVec 2 → Instr} {op : Nat} (k : Fin 3) (hop : op < 16)
    (henc : ∀ k, encode (i k) = ctrlWord k (BitVec.ofNat 4 op)) (hwf : ∀ k, (i k).wf = selOk k) :
    decode (BitVec.ofNat 8 (op + 16 * k.val)) = .ok (i (BitVec.ofNat 2 k.val)) := by
  have hword : ∀ (op : Fin 16) (k : Fin 3), BitVec.ofNat 8 (op.val + 16 * k.val) =
      ctrlWord (BitVec.ofNat 2 k.val) (BitVec.ofNat 4 op.val) := by decide
  have hsel : ∀ k : Fin 3, selOk (BitVec.ofNat 2 k.val) = true := by decide
  rw [hword ⟨op, hop⟩ k, ← henc]
  exact decode_encode ((hwf _).trans (hsel k))

section Compute
variable (r : Rounding) (k : Fin 3) (f : RegFile)

theorem compute_tdec : compute r (.tdec (BitVec.ofNat 2 k.val)) f =
    .ok { f with yt := .of (decT f.word[k].val) } :=
  selected_ofNat k (fun _ _ => .ok _) f

theorem compute_hdec : compute r (.hdec (BitVec.ofNat 2 k.val)) f =
    .ok { f with yh := .of (decH f.word[k].val) } :=
  selected_ofNat k (fun _ _ => .ok _) f

theorem compute_ofsdec : compute r (.ofsdec (BitVec.ofNat 2 k.val)) f =
    .ok { f with
      yh := .of (offDec (highByte f.word[k].val) lsbH)
      yt := .of (offDec (lowByte f.word[k].val) lsbT) } :=
  selected_ofNat k (fun _ _ => .ok _) f

theorem compute_tenc : compute r (.tenc (BitVec.ofNat 2 k.val)) f = codeInto 0 k f (encT r f.xt.val) :=
  selected_ofNat k (fun i f => codeInto 0 i f (encT r f.xt.val)) f

theorem compute_henc : compute r (.henc (BitVec.ofNat 2 k.val)) f = codeInto 1 k f (encH f.xh.val) :=
  selected_ofNat k (fun i f => codeInto 1 i f (encH f.xh.val)) f

theorem compute_thpk : compute r .thpk f = twoLanes (encT r f.xt.val) (encH f.xh.val)
    fun t h => { f with data := .of (thresholdWord t h) } := rfl

theorem compute_ofsenc : compute r .ofsenc f = twoLanes (offEnc f.xt.val lsbT) (offEnc f.xh.val lsbH)
    fun lo hi => { f with data := .of (offsetWord hi lo) } := rfl

end Compute

/-! ### TDEC, HDEC and OFSDEC -/

/-- Settles O26: TDEC's one destination is YT. -/
theorem tdecFollowsItsRule : Obligations.TdecFollowsItsRule := by
  refine ⟨fun k => performsAs_of_regs (decode_sel k (by decide) (fun _ => rfl) fun _ => rfl) ?_ fun s => ?_,
    illegalBut_of_opcodeMap (by decide), by decide +kernel⟩
  · rw [sourcesOf_tdec, wordIndex_ofNat, Option.elim_some]
  · rw [tempOf_eq_decT]
    exact regs_perform_of_ok (compute_tdec _ k _)

/-- Settles O27: HDEC's one destination is YH. -/
theorem hdecFollowsItsRule : Obligations.HdecFollowsItsRule := by
  refine ⟨fun k => performsAs_of_regs (decode_sel k (by decide) (fun _ => rfl) fun _ => rfl) ?_ fun s => ?_,
    illegalBut_of_opcodeMap (by decide), by decide +kernel⟩
  · rw [sourcesOf_hdec, wordIndex_ofNat, Option.elim_some]
  · rw [humOf_eq_decH]
    exact regs_perform_of_ok (compute_hdec _ k _)

/-- Settles O32: OFSDEC writes both outputs from one word. -/
theorem ofsdecFollowsItsRule : Obligations.OfsdecFollowsItsRule := by
  refine ⟨fun k => performsAs_of_regs (decode_sel k (by decide) (fun _ => rfl) fun _ => rfl) ?_
    fun s => ?_, illegalBut_of_opcodeMap (by decide), by decide +kernel⟩
  · rw [sourcesOf_ofsdec, wordIndex_ofNat, Option.elim_some]
  · rw [offsetOf_eq_offDec, offsetOf_eq_offDec]
    exact regs_perform_of_ok (compute_ofsdec _ k _)

/-! ### TENC and HENC -/

/-- Settles O28: TENC is the lane 0 encoder. -/
theorem tencFollowsItsRule : Obligations.TencFollowsItsRule := by
  refine ⟨fun k => performsAs_of_regs (decode_sel k (by decide) (fun _ => rfl) fun _ => rfl) ?_
    fun s => ?_, illegalBut_of_opcodeMap (by decide), fun r => ?_, by decide +kernel⟩
  · rw [sourcesOf_tenc, wordIndex_ofNat, Option.elim_some]
  · rw [tempCode_eq_encT]
    have hc := compute_tenc s.encRoundT k s.regs
    cases h : encT s.encRoundT s.regs.xt.val with
    | none => exact regs_perform_of_rangeError (hc.trans (by rw [h]; rfl))
    | some w => exact regs_perform_of_ok (hc.trans (by rw [h]; rfl))
  · cases r <;> decide +kernel

/-- Settles O29: HENC is the lane 1 encoder. -/
theorem hencFollowsItsRule : Obligations.HencFollowsItsRule := by
  refine ⟨fun k => performsAs_of_regs (decode_sel k (by decide) (fun _ => rfl) fun _ => rfl) ?_
    fun s => ?_, illegalBut_of_opcodeMap (by decide), by decide +kernel⟩
  · rw [sourcesOf_henc, wordIndex_ofNat, Option.elim_some]
  · rw [humCode_eq_encH]
    have hc := compute_henc s.encRoundT k s.regs
    cases h : encH s.regs.xh.val with
    | none => exact regs_perform_of_rangeError (hc.trans (by rw [h]; rfl))
    | some w => exact regs_perform_of_ok (hc.trans (by rw [h]; rfl))

/-! ### THPK and OFSENC -/

/-- Settles O30: THPK packs the two codes. -/
theorem thpkFollowsItsRule : Obligations.ThpkFollowsItsRule := by
  refine ⟨performsAs_of_regs (decode_encode (i := .thpk) rfl) rfl fun s => ?_,
    illegalBut_of_opcodeMap (by decide), fun r => ?_, by decide +kernel⟩
  · rw [tempCode_eq_encT, humCode_eq_encH]
    have hc := compute_thpk s.encRoundT s.regs
    cases ht : encT s.encRoundT s.regs.xt.val with
    | none => exact regs_perform_of_rangeError (lane := 0) (hc.trans (twoLanes_of_none ht _ _))
    | some a =>
      cases hh : encH s.regs.xh.val with
      | none => exact regs_perform_of_rangeError (lane := 1) (hc.trans (twoLanes_of_some_none ht hh _))
      | some b => exact regs_perform_of_ok (hc.trans (twoLanes_of_some ht hh _))
  · cases r <;> decide +kernel

/-- Settles O31: OFSENC packs the two offset bytes. -/
theorem ofsencFollowsItsRule : Obligations.OfsencFollowsItsRule := by
  refine ⟨performsAs_of_regs (decode_encode (i := .ofsenc) rfl) rfl fun s => ?_,
    illegalBut_of_opcodeMap (by decide), by decide +kernel⟩
  rw [offsetByte_lsbT, offsetByte_lsbH]
  have hc := compute_ofsenc s.encRoundT s.regs
  cases ht : offEnc s.regs.xt.val lsbT with
  | none => exact regs_perform_of_rangeError (lane := 0) (hc.trans (twoLanes_of_none ht _ _))
  | some a =>
    cases hh : offEnc s.regs.xh.val lsbH with
    | none => exact regs_perform_of_rangeError (lane := 1) (hc.trans (twoLanes_of_some_none ht hh _))
    | some b => exact regs_perform_of_ok (hc.trans (twoLanes_of_some ht hh _))

end Sys2Proof.Machine
end

section
/-!
The range of the encoders (42_conversion.md R84 to R86). Both roundings give the integer `k` up to a reach
beyond it, one for TRUNC and one half for HALF_AWAY, so a bound on the rounded value is a bound on the exact
one.
-/

namespace Sys2Proof.Machine

open Sys2Proof.Claims

/-- Twice how far beyond an integer, away from zero, the rounding still gives that integer. -/
def roundReach : Rounding → Nat
  | .trunc    => 2
  | .halfAway => 1

theorem roundReach_pos (r : Rounding) : 0 < roundReach r := by
  cases r <;> decide

/-! ### Bounds on a rounded value (R15) -/

theorem roundAbs_le_iff (r : Rounding) (q : F64) (k : Nat) :
    roundAbs r q ≤ k ↔ 2 * f64Mag q < (2 * k + roundReach r) * unitsPerOne := by
  have hpos := unitsPerOne_pos
  rw [← Nat.lt_add_one_iff]
  cases r with
  | trunc =>
    rw [roundAbs, Nat.div_lt_iff_lt_mul hpos, ← Nat.mul_lt_mul_left Nat.two_pos, ← Nat.mul_assoc]
    rfl
  | halfAway =>
    rw [roundAbs, Nat.div_lt_iff_lt_mul (Nat.mul_pos Nat.two_pos hpos), ← Nat.mul_assoc, roundReach]
    have hsplit : (k + 1) * 2 * unitsPerOne = (2 * k + 1) * unitsPerOne + unitsPerOne := by ring
    rw [hsplit]
    exact Nat.add_lt_add_iff_right

section Signed
variable (r : Rounding) (q : F64) (k : Nat)

theorem reach_mul_unitsPerOne_pos : 0 < (2 * k + roundReach r) * unitsPerOne :=
  Nat.mul_pos (Nat.add_pos_right _ (roundReach_pos r)) unitsPerOne_pos

theorem roundInt_le_iff :
    roundInt r q ≤ k ↔ 2 * f64Units q < ((2 * k + roundReach r) * unitsPerOne : Nat) := by
  have habs := roundAbs_le_iff r q k
  have hpos := reach_mul_unitsPerOne_pos r k
  generalize (2 * k + roundReach r) * unitsPerOne = bound at *
  unfold roundInt f64Units
  split <;> omega

theorem neg_le_roundInt_iff :
    -(k : Int) ≤ roundInt r q ↔ -(((2 * k + roundReach r) * unitsPerOne : Nat) : Int) < 2 * f64Units q := by
  have habs := roundAbs_le_iff r q k
  have hpos := reach_mul_unitsPerOne_pos r k
  generalize (2 * k + roundReach r) * unitsPerOne = bound at *
  unfold roundInt f64Units
  split <;> omega

end Signed

/-! ### Codes -/

/-- R84, R85: a finite quotient has a code exactly when it rounds to 0 to 65535. -/
theorem toCode_isSome_iff {r : Rounding} {q : F64} (hq : isFinite q = true) :
    (toCode r q).isSome = true ↔ 0 ≤ roundInt r q ∧ roundInt r q ≤ 65535 := by
  unfold toCode
  simp only [isInf_of_isFinite hq]
  by_cases h : roundInt r q < 0 ∨ 65535 < roundInt r q
  · simp only [h]
    simp
    omega
  · simp only [h]
    simp
    omega

theorem toCode_isSome_iff_units {r : Rounding} {q : F64} (hq : isFinite q = true) :
    (toCode r q).isSome = true ↔
      -((roundReach r * unitsPerOne : Nat) : Int) < 2 * f64Units q ∧
        2 * f64Units q < ((2 * 65535 + roundReach r) * unitsPerOne : Nat) := by
  have hlo := neg_le_roundInt_iff r q 0
  have hhi := roundInt_le_iff r q 65535
  rw [Nat.mul_zero, Nat.zero_add, Nat.cast_zero, neg_zero] at hlo
  rw [toCode_isSome_iff hq]
  exact and_congr hlo hhi

theorem encT_eq_toCode {t : F64} (r : Rounding) (h : isNaN t = false) :
    encT r t = toCode r (qOfTemp t) := if_neg (by simp [h])

theorem encH_eq_toCode {h : F64} (hh : isNaN h = false) : encH h = toCode .trunc (qOfHum h) :=
  if_neg (by simp [hh])

theorem toCode_of_isInf {r : Rounding} {q : F64} (h : isInf q = true) : toCode r q = none := if_pos h

theorem cast_unitsPerOne : ((unitsPerOne : Nat) : Int) = 2 ^ 1074 := by
  rw [unitsPerOne, Nat.cast_pow, Nat.cast_ofNat]

theorem toCode_trunc_isSome_iff {q : F64} (hq : isFinite q = true) :
    (toCode .trunc q).isSome = true ↔
      -(2 ^ 1074) < f64Units q ∧ f64Units q < 65536 * 2 ^ 1074 := by
  rw [toCode_isSome_iff_units hq, ← cast_unitsPerOne]
  dsimp only [roundReach]
  generalize unitsPerOne = u
  omega

theorem toCode_halfAway_isSome_iff {q : F64} (hq : isFinite q = true) :
    (toCode .halfAway q).isSome = true ↔
      -(2 ^ 1074) < 2 * f64Units q ∧ 2 * f64Units q < 131071 * 2 ^ 1074 := by
  rw [toCode_isSome_iff_units hq, ← cast_unitsPerOne]
  dsimp only [roundReach]
  generalize unitsPerOne = u
  omega

/-- Settles O38: the reach of each rounding below 0 and above 65535. -/
theorem encodersAcceptExactlyTheirRange : Obligations.EncodersAcceptExactlyTheirRange := by
  refine ⟨fun t ht hq => ?_, fun t ht r => ?_, fun h hh hq => ?_, fun h hh => ?_⟩
  · rw [encT_eq_toCode _ ht, encT_eq_toCode _ ht]
    exact ⟨toCode_trunc_isSome_iff hq, toCode_halfAway_isSome_iff hq⟩
  · cases hn : isNaN t with
    | true => exact if_pos hn
    | false => rw [encT_eq_toCode r hn, toCode_of_isInf (by simpa [hn] using ht)]
  · rw [encH_eq_toCode hh]
    exact toCode_trunc_isSome_iff hq
  · cases hn : isNaN h with
    | true => exact if_pos hn
    | false => rw [encH_eq_toCode hn, toCode_of_isInf (by simpa [hn] using hh)]

end Sys2Proof.Machine
end

section
/-!
The raw codes through decoding and encoding (42_conversion.md R82 to R86). Each operation of the formulas
errs by at most `stepError`; the errors of the whole chain stay far below the gap between two neighbouring
codes, and below the quarter of a code the encoders have to spare.
-/

namespace Sys2Proof.Machine

open Sys2Proof.Claims

/-! ### Values -/

/-- The exact value of a finite binary64 number. -/
def value (a : F64) : ℚ := f64Units a / unitsPerOne

/-- 1 or -1, as the sign bit says. -/
def signFactor (s : Bool) : ℚ := if s then -1 else 1

theorem cast_unitsPerOne_pos : (0 : ℚ) < unitsPerOne := Nat.cast_pos.2 unitsPerOne_pos

theorem value_eq (a : F64) : value a = signFactor (f64Sign a) * (f64Mag a / unitsPerOne) := by
  unfold value f64Units signFactor
  generalize (unitsPerOne : ℚ) = u
  cases f64Sign a <;> simp [neg_div]

theorem value_of_units {a : F64} {n : Int} (h : f64Units a = n * unitsPerOne) : value a = n := by
  rw [value, h, Int.cast_mul, Int.cast_natCast, mul_div_cancel_right₀ _ cast_unitsPerOne_pos.ne']

theorem value_lt_iff {a b : F64} : value a < value b ↔ f64Units a < f64Units b := by
  rw [value, value, div_lt_div_iff_of_pos_right cast_unitsPerOne_pos, Int.cast_lt]

theorem value_fneg (a : F64) : value (fneg a) = -value a := by
  rw [value, value, f64Units_fneg, Int.cast_neg, neg_div]

theorem abs_signFactor_mul (s : Bool) (x : ℚ) : |signFactor s * x| = |x| := by
  cases s <;> simp [signFactor]

theorem signFactor_bne (s t : Bool) : signFactor (s != t) = signFactor s * signFactor t := by
  cases s <;> cases t <;> simp [signFactor]

theorem signFactor_div (s t : Bool) : signFactor s / signFactor t = signFactor s * signFactor t := by
  cases t <;> simp [signFactor, div_neg]

/-- An integer is its sign times its magnitude; a zero may have either sign. -/
theorem signFactor_mul_natAbs (n : Int) (s : Bool) :
    signFactor (if n = 0 then s else decide (n < 0)) * n.natAbs = n := by
  rw [Nat.cast_natAbs, Int.cast_abs]
  obtain h | rfl | h := lt_trichotomy n 0
  · rw [if_neg h.ne, decide_eq_true h, abs_of_neg (Int.cast_lt_zero.2 h)]
    simp [signFactor]
  · simp
  · rw [if_neg h.ne', decide_eq_false h.not_gt, abs_of_pos (Int.cast_pos.2 h)]
    simp [signFactor]

/-! ### One rounding -/

/-- A significand of at most 53 bits and an exponent in range make a finite value. -/
theorem exists_finite_magUnits_eq {e m : Nat} (he : e < 2044) (hm : m < 2 ^ 53) :
    ∃ p < infMag, magUnits p = m * 2 ^ e := by
  obtain ⟨p, hp⟩ := exists_magUnits_eq e hm
  refine ⟨p, ?_, hp⟩
  rw [← magUnits_strictMono.lt_iff_lt, hp, magUnits_infMag]
  exact Nat.mul_lt_mul'' (by omega) (pow_lt_pow_right₀ Nat.one_lt_two he)

/-- No result of magnitude at most 2 ^ 16 is further than this from the exact value. -/
def stepError : ℚ := 1 / 2 ^ 36

theorem two_pow_eq_mul {e f g : Nat} (h : e = f + g) : 2 ^ e = 2 ^ f * 2 ^ g := by
  rw [h, Nat.pow_add]

/-- `stepError` in units. -/
def gridUnits : Nat := 2 ^ 1038

theorem gridUnits_pos : 0 < gridUnits := by
  unfold gridUnits
  positivity

theorem unitsPerOne_eq : unitsPerOne = 2 ^ 36 * gridUnits := by
  unfold unitsPerOne gridUnits
  exact two_pow_eq_mul (e := 1074) (f := 36) (g := 1038) rfl

theorem exists_magUnits_eq_grid {m : Nat} (hm : m < 2 ^ 53) :
    ∃ p < infMag, magUnits p = m * gridUnits := exists_finite_magUnits_eq (by decide) hm

/-- A multiple of 2 ^ -36 at most `2 ^ 16` is a binary64 value, and the rounding is no further away. -/
theorem dist_roundMag_le {n d : Nat} (hd : 0 < d) (hn : n ≤ 2 ^ 16 * unitsPerOne * d) :
    Claims.dist (magUnits (roundMag n d) * d) n ≤ gridUnits * d := by
  have hstep : 0 < gridUnits * d := Nat.mul_pos gridUnits_pos hd
  have hm : n / (gridUnits * d) ≤ 2 ^ 52 := by
    refine Nat.div_le_of_le_mul (hn.trans_eq ?_)
    rw [unitsPerOne_eq]
    ring
  obtain ⟨y, hyfin, hy⟩ := exists_magUnits_eq_grid (hm.trans_lt (by decide))
  have hdist : Claims.dist (magUnits y * d) n ≤ gridUnits * d := by
    rw [hy, Nat.mul_assoc]
    have hmod := Nat.mod_lt n hstep
    have hdiv := Nat.div_add_mod' n (gridUnits * d)
    unfold Claims.dist
    omega
  obtain ⟨hfin, -⟩ := within_pack_roundMag false hd (m := 2 ^ 16) (by decide) hn
  rw [isFinite, f64MagBits_pack_roundMag, decide_eq_true_eq] at hfin
  obtain ⟨-, -, hnear⟩ | ⟨hinf, -⟩ := nearestEven_roundMag n hd
  · exact (hnear y hyfin).1.trans hdist
  · exact absurd hinf hfin.ne

/-- The distance of `dist_roundMag_le` as a distance of values: `u` units make one, `g` a grid step. -/
theorem abs_sub_le_stepError {M n d u g : Nat} (hd : 0 < d) (hg : 0 < g) (hu : u = 2 ^ 36 * g)
    (h : Claims.dist (M * d) n ≤ g * d) : |(M / u - n / (d * u) : ℚ)| ≤ stepError := by
  have hd' : (0 : ℚ) < d := Nat.cast_pos.2 hd
  have hg' : (0 : ℚ) < g := Nat.cast_pos.2 hg
  have hu' : (u : ℚ) = 2 ^ 36 * g := by exact_mod_cast hu
  have hdiff : (M / u - n / (d * u) : ℚ) = (M * d - n) / (d * u) := by
    rw [hu']
    field_simp
  have habs : |(M * d - n : ℚ)| ≤ g * d := by
    unfold Claims.dist at h
    have hlo : n ≤ M * d + g * d := by omega
    have hhi : M * d ≤ n + g * d := by omega
    have hlo' : (n : ℚ) ≤ M * d + g * d := by exact_mod_cast hlo
    have hhi' : (M * d : ℚ) ≤ n + g * d := by exact_mod_cast hhi
    exact abs_le.2 ⟨by linarith, by linarith⟩
  rw [hdiff, abs_div, abs_of_pos (mul_pos hd' (by rw [hu']; positivity)), hu', stepError,
    div_le_div_iff₀ (by positivity) (by positivity)]
  linarith

/-! ### Approximations -/

/-- `a` is finite and at most `ε` from `x`. -/
def Approx (ε x : ℚ) (a : F64) : Prop := isFinite a = true ∧ |value a - x| ≤ ε

/-- R8: packing a rounded exact result `x` errs by at most `stepError`. -/
theorem approx_pack_roundMag {s : Bool} {n d : Nat} {x : ℚ} (hd : 0 < d)
    (hx : x = signFactor s * (n / (d * unitsPerOne))) (hbound : |x| ≤ 2 ^ 16) :
    Approx stepError x (f64Pack s (roundMag n d)) := by
  have hdu : (0 : ℚ) < d * unitsPerOne := mul_pos (Nat.cast_pos.2 hd) cast_unitsPerOne_pos
  have hn : n ≤ 2 ^ 16 * unitsPerOne * d := by
    rw [hx, abs_signFactor_mul, abs_of_nonneg (div_nonneg n.cast_nonneg hdu.le), div_le_iff₀ hdu] at hbound
    generalize unitsPerOne = u at *
    have hcast : (n : ℚ) ≤ ((2 ^ 16 * u * d : Nat) : ℚ) := by
      push_cast
      linarith
    exact_mod_cast hcast
  obtain ⟨hfin, -⟩ := within_pack_roundMag s hd (m := 2 ^ 16) (by decide) hn
  refine ⟨hfin, ?_⟩
  rw [value_eq, f64Sign_pack, f64Mag, f64MagBits_pack_roundMag, hx, ← mul_sub, abs_signFactor_mul]
  exact abs_sub_le_stepError hd gridUnits_pos unitsPerOne_eq (dist_roundMag_le hd hn)

section Steps
variable {a b : F64} (ha : isFinite a = true) (hb : isFinite b = true)
include ha hb

theorem approx_fadd (h : |value a + value b| ≤ 2 ^ 16) :
    Approx stepError (value a + value b) (fadd a b) := by
  rw [fadd_of_isFinite ha hb]
  refine approx_pack_roundMag Nat.one_pos ?_ h
  rw [value, value, ← add_div, ← Int.cast_add, Nat.cast_one, one_mul, ← mul_div_assoc,
    signFactor_mul_natAbs]

theorem approx_fmul (h : |value a * value b| ≤ 2 ^ 16) :
    Approx stepError (value a * value b) (fmul a b) := by
  rw [fmul_of_isFinite ha hb]
  refine approx_pack_roundMag unitsPerOne_pos ?_ h
  rw [value_eq, value_eq, signFactor_bne, Nat.cast_mul]
  have hu := cast_unitsPerOne_pos.ne'
  generalize (unitsPerOne : ℚ) = u at *
  field_simp

theorem approx_fdiv (h0 : f64Mag b ≠ 0) (h : |value a / value b| ≤ 2 ^ 16) :
    Approx stepError (value a / value b) (fdiv a b) := by
  rw [fdiv_of_isFinite ha hb h0]
  refine approx_pack_roundMag (Nat.pos_of_ne_zero h0) ?_ h
  rw [value_eq, value_eq, signFactor_bne, Nat.cast_mul, mul_div_mul_comm, signFactor_div,
    div_div_div_cancel_right₀ cast_unitsPerOne_pos.ne', mul_div_mul_right _ _ cast_unitsPerOne_pos.ne']

end Steps

/-! ### Chains of operations -/

theorem Approx.mono {ε δ x : ℚ} {a : F64} (h : Approx ε x a) (hle : ε ≤ δ) : Approx δ x a :=
  ⟨h.1, h.2.trans hle⟩

/-- The error of an operation's own rounding adds to the error its operand brings. -/
theorem Approx.of_exact {ε δ x y : ℚ} {a : F64} (h : Approx ε y a) (hxy : |y - x| ≤ δ) :
    Approx (δ + ε) x a :=
  ⟨h.1, (abs_sub_le _ y _).trans (by linarith [h.2])⟩

/-- A constant of a formula: the finite binary64 number of an integer. -/
def IsConst (c : F64) (m : Nat) : Prop := isFinite c = true ∧ f64Units c = m * unitsPerOne

theorem IsConst.value {c : F64} {m : Nat} (hc : IsConst c m) : value c = m := by
  rw [value_of_units (n := m) hc.2, Int.cast_natCast]

section Chain
variable {ε x : ℚ} {a c : F64} {m : Nat} (ha : Approx ε x a) (hc : IsConst c m)
include ha

theorem Approx.abs_value_le : |value a| ≤ |x| + ε := by
  have h := abs_add_le x (value a - x)
  rw [add_sub_cancel] at h
  linarith [ha.2]

include hc

theorem Approx.fadd (hbound : |x| + ε + m ≤ 2 ^ 16) : Approx (ε + stepError) (x + m) (fadd a c) := by
  have hle := ha.abs_value_le
  have hadd : |value a + value c| ≤ 2 ^ 16 := by
    refine (abs_add_le _ _).trans ?_
    rw [hc.value, Nat.abs_cast]
    linarith
  refine (approx_fadd ha.1 hc.1 hadd).of_exact ?_
  rw [hc.value, add_sub_add_right_eq_sub]
  exact ha.2

theorem Approx.fsub (hbound : |x| + ε + m ≤ 2 ^ 16) : Approx (ε + stepError) (x - m) (fsub a c) := by
  have hle := ha.abs_value_le
  have hfin : isFinite (fneg c) = true := by rw [isFinite_fneg, hc.1]
  have hsub : |value a + value (fneg c)| ≤ 2 ^ 16 := by
    refine (abs_add_le _ _).trans ?_
    rw [value_fneg, abs_neg, hc.value, Nat.abs_cast]
    linarith
  refine (approx_fadd ha.1 hfin hsub).of_exact ?_
  rw [value_fneg, hc.value, ← sub_eq_add_neg, sub_sub_sub_cancel_right]
  exact ha.2

theorem Approx.fmul (hbound : (|x| + ε) * m ≤ 2 ^ 16) :
    Approx (ε * m + stepError) (x * m) (fmul a c) := by
  have hm : (0 : ℚ) ≤ m := m.cast_nonneg
  have hmul : |value a * value c| ≤ 2 ^ 16 := by
    rw [abs_mul, hc.value, Nat.abs_cast]
    exact (mul_le_mul_of_nonneg_right ha.abs_value_le hm).trans hbound
  refine (approx_fmul ha.1 hc.1 hmul).of_exact ?_
  rw [hc.value, ← sub_mul, abs_mul, Nat.abs_cast]
  exact mul_le_mul_of_nonneg_right ha.2 hm

theorem Approx.fdiv (hm : 0 < m) (hbound : (|x| + ε) / m ≤ 2 ^ 16) :
    Approx (ε / m + stepError) (x / m) (fdiv a c) := by
  have hm' : (0 : ℚ) < m := Nat.cast_pos.2 hm
  have h0 : f64Mag c ≠ 0 := by
    rw [← natAbs_f64Units, hc.2, ← Nat.cast_mul, Int.natAbs_natCast]
    exact (Nat.mul_pos hm unitsPerOne_pos).ne'
  have hdiv : |value a / value c| ≤ 2 ^ 16 := by
    rw [abs_div, hc.value, Nat.abs_cast]
    exact (div_le_div_of_nonneg_right ha.abs_value_le hm'.le).trans hbound
  refine (approx_fdiv ha.1 hc.1 h0 hdiv).of_exact ?_
  rw [hc.value, ← sub_div, abs_div, Nat.abs_cast]
  exact div_le_div_of_nonneg_right ha.2 hm'.le

end Chain

theorem isConst_f64OfNat {n : Nat} (hn : n < 2 ^ 53) : IsConst (f64OfNat n) n := by
  obtain ⟨hfin, hunits⟩ := f64OfNat_exact hn
  exact ⟨hfin, by rw [hunits, cast_unitsPerOne]⟩

theorem IsConst.approx {c : F64} {m : Nat} (hc : IsConst c m) : Approx 0 m c :=
  ⟨hc.1, by rw [hc.value, sub_self, abs_zero]⟩

theorem isConst_c65535 : IsConst c65535 65535 := ⟨by decide +kernel, by decide +kernel⟩
theorem isConst_c175 : IsConst c175 175 := ⟨by decide +kernel, by decide +kernel⟩
theorem isConst_c100 : IsConst c100 100 := ⟨by decide +kernel, by decide +kernel⟩
theorem isConst_c45 : IsConst c45 45 := ⟨by decide +kernel, by decide +kernel⟩

/-! ### The four chains -/

/-- R7: a raw code is at most 65535. -/
theorem code_le (r : Word16) : (0 : ℚ) ≤ r.toNat / 65535 ∧ (r.toNat / 65535 : ℚ) ≤ 1 := by
  have hr : (r.toNat : ℚ) ≤ 65535 := by exact_mod_cast Nat.le_of_lt_succ r.isLt
  constructor
  · positivity
  · rw [div_le_one (by norm_num)]
    exact hr

theorem approx_code_quotient (r : Word16) :
    Approx stepError (r.toNat / 65535) (fdiv (f64OfNat r.toNat) c65535) := by
  obtain ⟨hlo, hhi⟩ := code_le r
  have hcode := (isConst_f64OfNat (n := r.toNat) (by omega)).approx
  have h := hcode.fdiv isConst_c65535 (by decide) (by
    rw [abs_of_nonneg (Nat.cast_nonneg _)]
    push_cast
    linarith)
  simpa using h

/-- R82. -/
theorem approx_decT (r : Word16) : Approx (1 / 2 ^ 28) (r.toNat / 65535 * 175 - 45) (decT r) := by
  obtain ⟨hlo, hhi⟩ := code_le r
  have hq := approx_code_quotient r
  generalize (r.toNat / 65535 : ℚ) = x at *
  have hmul := hq.fmul isConst_c175 (by
    rw [abs_of_nonneg hlo]
    norm_num [stepError]
    linarith)
  have hsub := hmul.fsub isConst_c45 (by
    rw [abs_of_nonneg (by positivity)]
    norm_num [stepError]
    linarith)
  exact hsub.mono (by norm_num [stepError])

/-- R83. -/
theorem approx_decH (r : Word16) : Approx (1 / 2 ^ 28) (r.toNat / 65535 * 100) (decH r) := by
  obtain ⟨hlo, hhi⟩ := code_le r
  have hq := approx_code_quotient r
  generalize (r.toNat / 65535 : ℚ) = x at *
  have hmul := hq.fmul isConst_c100 (by
    rw [abs_of_nonneg hlo]
    norm_num [stepError]
    linarith)
  exact hmul.mono (by norm_num [stepError])

/-- R84: the quotient is the code again, to within a quarter. -/
theorem approx_qOfTemp_decT (r : Word16) : Approx (1 / 4) r.toNat (qOfTemp (decT r)) := by
  obtain ⟨hlo, hhi⟩ := code_le r
  have hdec := approx_decT r
  have hx : (r.toNat : ℚ) = r.toNat / 65535 * 65535 := by ring
  rw [hx]
  generalize (r.toNat / 65535 : ℚ) = x at *
  have hadd := hdec.fadd isConst_c45 (by
    have habs : |x * 175 - 45| ≤ 130 := abs_le.2 ⟨by linarith, by linarith⟩
    push_cast
    linarith)
  have hdiv := hadd.fdiv isConst_c175 (by decide) (by
    push_cast
    rw [abs_of_nonneg (by linarith)]
    norm_num [stepError]
    linarith)
  have hx' : (x * 175 - 45 + (45 : Nat)) / (175 : Nat) = x := by
    push_cast
    ring
  rw [hx'] at hdiv
  have hmul := hdiv.fmul isConst_c65535 (by
    rw [abs_of_nonneg hlo]
    norm_num [stepError]
    linarith)
  exact hmul.mono (by norm_num [stepError])

/-- R85: likewise for the humidity. -/
theorem approx_qOfHum_decH (r : Word16) : Approx (1 / 4) r.toNat (qOfHum (decH r)) := by
  obtain ⟨hlo, hhi⟩ := code_le r
  have hdec := approx_decH r
  have hx : (r.toNat : ℚ) = r.toNat / 65535 * 65535 := by ring
  rw [hx]
  generalize (r.toNat / 65535 : ℚ) = x at *
  have hdiv := hdec.fdiv isConst_c100 (by decide) (by
    rw [abs_of_nonneg (by positivity)]
    norm_num
    linarith)
  have hx' : x * 100 / (100 : Nat) = x := by
    push_cast
    ring
  rw [hx'] at hdiv
  have hmul := hdiv.fmul isConst_c65535 (by
    rw [abs_of_nonneg hlo]
    norm_num [stepError]
    linarith)
  exact hmul.mono (by norm_num [stepError])

/-! ### Decoding is strictly increasing -/

/-- Centres further apart than the errors order the values. -/
theorem units_lt_of_approx {ε x y : ℚ} {a b : F64} (ha : Approx ε x a) (hb : Approx ε y b)
    (h : x + ε < y - ε) : f64Units a < f64Units b := by
  obtain ⟨-, ha⟩ := abs_le.1 ha.2
  obtain ⟨hb, -⟩ := abs_le.1 hb.2
  rw [← value_lt_iff]
  linarith

/-- Neighbouring codes are `1 / 65535` apart, before the scaling. -/
theorem code_gap {r r' : Word16} (h : r.toNat < r'.toNat) :
    (r.toNat / 65535 + 1 / 65535 : ℚ) ≤ r'.toNat / 65535 := by
  have h' : (r.toNat + 1 : ℚ) ≤ r'.toNat := by exact_mod_cast h
  linarith

theorem units_decT_lt {r r' : Word16} (h : r.toNat < r'.toNat) :
    f64Units (decT r) < f64Units (decT r') := by
  have hgap := code_gap h
  exact units_lt_of_approx (approx_decT r) (approx_decT r') (by linarith)

theorem units_decH_lt {r r' : Word16} (h : r.toNat < r'.toNat) :
    f64Units (decH r) < f64Units (decH r') := by
  have hgap := code_gap h
  exact units_lt_of_approx (approx_decH r) (approx_decH r') (by linarith)

/-- An increasing map lies between its end points. -/
theorem units_mem_endpoints {f : Word16 → F64}
    (hf : ∀ r r' : Word16, r.toNat < r'.toNat → f64Units (f r) < f64Units (f r')) (r : Word16) :
    f64Units (f 0x0000) ≤ f64Units (f r) ∧ f64Units (f r) ≤ f64Units (f 0xFFFF) := by
  have hmono : ∀ r r' : Word16, r.toNat ≤ r'.toNat → f64Units (f r) ≤ f64Units (f r') := fun r r' h => by
    obtain h | h := h.lt_or_eq
    · exact (hf r r' h).le
    · rw [BitVec.eq_of_toNat_eq h]
  exact ⟨hmono _ _ (Nat.zero_le _), hmono _ _ (Nat.le_of_lt_succ r.isLt)⟩

theorem units_decT_endpoints :
    f64Units (decT 0x0000) = -45 * unitsPerOne ∧ f64Units (decT 0xFFFF) = 130 * unitsPerOne := by
  decide +kernel

theorem units_decH_endpoints :
    f64Units (decH 0x0000) = 0 ∧ f64Units (decH 0xFFFF) = 100 * unitsPerOne := by decide +kernel

theorem units_decT_bounds (r : Word16) :
    -45 * 2 ^ 1074 ≤ f64Units (decT r) ∧ f64Units (decT r) ≤ 130 * 2 ^ 1074 := by
  obtain ⟨hlo, hhi⟩ := units_decT_endpoints
  rw [← cast_unitsPerOne, ← hlo, ← hhi]
  exact units_mem_endpoints (fun _ _ => units_decT_lt) r

theorem units_decH_bounds (r : Word16) :
    0 ≤ f64Units (decH r) ∧ f64Units (decH r) ≤ 100 * 2 ^ 1074 := by
  obtain ⟨hlo, hhi⟩ := units_decH_endpoints
  rw [← cast_unitsPerOne, ← hlo, ← hhi]
  exact units_mem_endpoints (fun _ _ => units_decH_lt) r

/-- Settles O36: a code's step is far larger than the errors, so the end points are the codes 0x0000 and
0xFFFF. -/
theorem decodeMapsAreStrictlyIncreasing : Obligations.DecodeMapsAreStrictlyIncreasing := by
  refine ⟨fun r r' h => ⟨units_decT_lt h, units_decH_lt h⟩, fun r => ?_⟩
  obtain ⟨hTlo, hThi⟩ := units_decT_bounds r
  obtain ⟨hHlo, hHhi⟩ := units_decH_bounds r
  exact ⟨isFinite_decT r, isFinite_decH r, hTlo, hThi, hHlo, hHhi⟩

/-! ### Encoding a decoded code -/

/-- A distance of values at most a quarter, as a distance of units; `u` units make one. -/
theorem quarter_bounds {z : Int} {n u : Nat} (hu : (0 : ℚ) < u) (h : |(z / u - n : ℚ)| ≤ 1 / 4) :
    4 * (n * u : Nat) - (u : Int) ≤ 4 * z ∧ 4 * z ≤ 4 * (n * u : Nat) + (u : Int) := by
  obtain ⟨hlo, hhi⟩ := abs_le.1 h
  rw [le_sub_iff_add_le, le_div_iff₀ hu] at hlo
  rw [sub_le_iff_le_add, div_le_iff₀ hu] at hhi
  constructor
  · have hcast : (4 * (n * u : Nat) - u : ℚ) ≤ 4 * z := by
      push_cast
      linarith
    exact_mod_cast hcast
  · have hcast : (4 * z : ℚ) ≤ 4 * (n * u : Nat) + u := by
      push_cast
      linarith
    exact_mod_cast hcast

theorem units_of_approx {q : F64} {n : Nat} (h : Approx (1 / 4) n q) :
    4 * (n * unitsPerOne : Nat) - (unitsPerOne : Int) ≤ 4 * f64Units q ∧
      4 * f64Units q ≤ 4 * (n * unitsPerOne : Nat) + (unitsPerOne : Int) :=
  quarter_bounds cast_unitsPerOne_pos h.2

/-- HALF_AWAY finds the integer within a quarter. -/
theorem roundInt_halfAway_of_approx {q : F64} {n : Nat} (h : Approx (1 / 4) n q) :
    roundInt .halfAway q = n := by
  have hpos := unitsPerOne_pos
  obtain ⟨hlo, hhi⟩ := units_of_approx h
  have hle := roundInt_le_iff .halfAway q n
  cases n with
  | zero =>
    have hge := neg_le_roundInt_iff .halfAway q 0
    simp only [roundReach, Nat.mul_zero, Nat.zero_mul, Nat.zero_add, Nat.one_mul] at *
    omega
  | succ m =>
    have hgt := roundInt_le_iff .halfAway q m
    simp only [roundReach, Nat.add_mul, Nat.mul_add, Nat.mul_assoc, Nat.one_mul] at *
    omega

/-- TRUNC finds it too, or the integer next to it on the side of 0. -/
theorem roundInt_trunc_of_approx {q : F64} {n : Nat} (h : Approx (1 / 4) n q) :
    roundInt .trunc q = n ∨ (n ≠ 0 ∧ roundInt .trunc q = (n - 1 : Nat)) := by
  have hpos := unitsPerOne_pos
  obtain ⟨hlo, hhi⟩ := units_of_approx h
  have hle := roundInt_le_iff .trunc q n
  have hge := neg_le_roundInt_iff .trunc q 0
  obtain _ | _ | m := n
  · simp only [roundReach, Nat.mul_zero, Nat.zero_mul, Nat.zero_add] at *
    omega
  · simp only [roundReach, Nat.mul_zero, Nat.zero_add, Nat.one_mul] at *
    omega
  · have hgt := roundInt_le_iff .trunc q m
    simp only [roundReach, Nat.add_mul, Nat.mul_add, Nat.mul_assoc, Nat.one_mul] at *
    omega

theorem toCode_of_roundInt {r : Rounding} {q : F64} {w : Word16} (hq : isFinite q = true)
    (h : roundInt r q = w.toNat) : toCode r q = some w := by
  have hw := w.isLt
  unfold toCode
  rw [if_neg (by simp [isInf_of_isFinite hq]), h]
  dsimp only
  rw [if_neg (by omega), BitVec.ofInt_natCast, BitVec.ofNat_toNat, BitVec.setWidth_eq]

theorem toCode_halfAway_of_approx {q : F64} {r : Word16} (h : Approx (1 / 4) r.toNat q) :
    toCode .halfAway q = some r := toCode_of_roundInt h.1 (roundInt_halfAway_of_approx h)

theorem toCode_trunc_of_approx {q : F64} {r : Word16} (h : Approx (1 / 4) r.toNat q) :
    toCode .trunc q = some r ∨ (r ≠ 0 ∧ toCode .trunc q = some (r - 1)) := by
  refine (roundInt_trunc_of_approx h).imp (toCode_of_roundInt h.1) fun ⟨h0, hround⟩ => ?_
  have hne : r ≠ 0 := fun hr => h0 (by simp [hr])
  have hpred : (r - 1).toNat = r.toNat - 1 := by bv_omega
  exact ⟨hne, toCode_of_roundInt h.1 (by rw [hround, hpred])⟩

/-- Settles O37: the quotient the encoder rounds is within a quarter of the code. -/
theorem encodingADecodedCodeReturnsIt : Obligations.EncodingADecodedCodeReturnsIt := by
  intro r
  have hT := isNaN_of_isFinite (isFinite_decT r)
  have hH := isNaN_of_isFinite (isFinite_decH r)
  rw [encT_eq_toCode _ hT, encT_eq_toCode _ hT, encH_eq_toCode hH]
  exact ⟨toCode_halfAway_of_approx (approx_qOfTemp_decT r), toCode_trunc_of_approx (approx_qOfTemp_decT r),
    toCode_trunc_of_approx (approx_qOfHum_decH r)⟩

end Sys2Proof.Machine
end

section
/-!
The offset bytes (42_conversion.md R87 to R90). A magnitude of 7 bits times an LSB is exact, and dividing by
the LSB again cannot round a value below a tie up to the tie: so the byte's magnitude is the nearest one to
the exact quotient.
-/

namespace Sys2Proof.Machine

open Sys2Proof.Claims

/-! ### The magnitude of a value -/

@[simp] theorem f64MagBits_fabs (a : F64) : f64MagBits (fabs a) = f64MagBits a := by
  have hmask : (0x7FFFFFFFFFFFFFFF : F64).toNat = 2 ^ 63 - 1 := by decide
  rw [f64MagBits, fabs, BitVec.toNat_and, hmask, Nat.and_two_pow_sub_one_eq_mod, Nat.mod_mod]
  rfl

@[simp] theorem f64Mag_fabs (a : F64) : f64Mag (fabs a) = f64Mag a := by simp [f64Mag]

@[simp] theorem isFinite_fabs (a : F64) : isFinite (fabs a) = isFinite a := by simp [isFinite]

@[simp] theorem isInf_fabs (a : F64) : isInf (fabs a) = isInf a := by simp [isInf]

/-- R88: a value is its magnitude with the sign `fge0` tells; either sign is right for -0.0. -/
theorem f64Units_eq_of_fge0 {v : F64} (hv : isNaN v = false) :
    f64Units v = (if fge0 v then 1 else -1) * (f64Mag v : Int) := by
  have hzero : f64Mag v = 0 ↔ f64MagBits v = 0 := f64Mag_eq_zero
  unfold f64Units fge0
  cases hs : f64Sign v with
  | false => simp [hv]
  | true =>
    by_cases h : f64MagBits v = 0
    · simp [hzero.2 h]
    · simp [hv, h]

/-! ### Rounding keeps the order -/

theorem roundMag_mono {n n' d : Nat} (hd : 0 < d) (h : n ≤ n') : roundMag n d ≤ roundMag n' d := by
  obtain ⟨lo, hlo, hhi, hround⟩ := roundMag_bracket n hd
  obtain ⟨lo', hlo', hhi', hround'⟩ := roundMag_bracket n' hd
  have hle : lo < lo' + 1 :=
    magUnits_strictMono.lt_iff_lt.1 (Nat.lt_of_mul_lt_mul_right ((hlo.trans h).trans_lt hhi'))
  have hnear : nearerPattern n d lo ≤ nearerPattern n' d lo' := by
    obtain rfl | hlt : lo = lo' ∨ lo + 1 ≤ lo' := by omega
    · unfold nearerPattern
      split <;> split <;> omega
    · have := nearerPattern_eq_or n d lo
      have := nearerPattern_eq_or n' d lo'
      omega
  rw [hround, hround']
  exact min_le_min_right _ hnear

/-! ### Ties -/

/-- Two consecutive patterns are one unit of their last place apart. -/
theorem exists_gap (p : Nat) : ∃ e m, m < 2 ^ 53 ∧ (e = 0 ∨ 2 ^ 52 ≤ m) ∧
    magUnits p = m * 2 ^ e ∧ magUnits (p + 1) = m * 2 ^ e + 2 ^ e := by
  obtain ⟨e, m, hm, hnorm, rfl⟩ := exists_pattern p
  refine ⟨e, m, hm, hnorm, magUnits_pattern hm.le hnorm, ?_⟩
  rw [Nat.add_assoc, magUnits_pattern (by omega) (by omega), Nat.add_mul, Nat.one_mul]

/-- A unit of the last place of a normal value is at most `2 ^ -52` of the value it leads to. -/
theorem ulp_le {e m : Nat} (hnorm : e = 0 ∨ 2 ^ 52 ≤ m) (h : 2 ^ 52 ≤ m * 2 ^ e + 2 ^ e) :
    2 ^ e * 2 ^ 52 ≤ m * 2 ^ e + 2 ^ e := by
  obtain rfl | hnorm := hnorm
  · simpa using h
  · rw [Nat.mul_comm (2 ^ e)]
    exact (Nat.mul_le_mul_right _ hnorm).trans (Nat.le_add_right _ _)

/-- It is more than `2 ^ -53` of that value, unless the value is a power of two, which no multiple of 5 is. -/
theorem lt_ulp_of_five_dvd {e m : Nat} (hm : m < 2 ^ 53) (hfive : 5 ∣ m * 2 ^ e + 2 ^ e) :
    m * 2 ^ e + 2 ^ e < 2 ^ e * 2 ^ 53 := by
  have hvalue : m * 2 ^ e + 2 ^ e = 2 ^ e * (m + 1) := by ring
  rw [hvalue] at hfive ⊢
  have hne : m + 1 ≠ 2 ^ 53 := fun h => by
    rw [h, ← Nat.pow_add] at hfive
    exact absurd (Nat.prime_five.dvd_of_dvd_pow hfive) (by decide)
  exact Nat.mul_lt_mul_of_pos_left (by omega) (Nat.two_pow_pos e)

/-- Below the midpoint of two consecutive values the rounding goes down. -/
theorem roundMag_le_of_lt_midpoint {n d q : Nat} (hd : 0 < d)
    (h : 2 * n < magUnits q * d + magUnits (q + 1) * d) : roundMag n d ≤ q := by
  obtain ⟨lo, hlo, hhi, hround⟩ := roundMag_bracket n hd
  have hstep : magUnits q * d < magUnits (q + 1) * d :=
    Nat.mul_lt_mul_of_pos_right (magUnits_strictMono (Nat.lt_succ_self q)) hd
  have hle : lo < q + 1 := magUnits_strictMono.lt_iff_lt.1 (Nat.lt_of_mul_lt_mul_right (a := d) (by omega))
  rw [hround]
  refine (Nat.min_le_left _ _).trans ?_
  obtain rfl | hlt : lo = q ∨ lo + 1 ≤ q := by omega
  · unfold nearerPattern
    rw [if_neg (by omega)]
  · have hnear := nearerPattern_eq_or n d lo
    omega

/-- A value below `P` has a quotient below `Q = P / d` after rounding too: a step down from `P` is, relative
to it, more than half a step down from `Q`. -/
theorem roundMag_lt_of_lt_tie {P Q v u d : Nat} (hu : 0 < u) (hd : 0 < d)
    (hcross : magUnits P * u = magUnits Q * d) (hfive : 5 ∣ magUnits P) (hQ : 2 ^ 52 ≤ magUnits Q)
    (hv : v < P) : roundMag (magUnits v * u) d < Q := by
  have hQpos : Q ≠ 0 := fun h => by simp [h, magUnits_zero] at hQ
  obtain ⟨p, rfl⟩ := Nat.exists_eq_succ_of_ne_zero (Nat.ne_zero_of_lt hv)
  obtain ⟨q, rfl⟩ := Nat.exists_eq_succ_of_ne_zero hQpos
  obtain ⟨e, m, hm, -, hp, hp'⟩ := exists_gap p
  obtain ⟨e', m', -, hnorm, hq, hq'⟩ := exists_gap q
  have hle : magUnits v * u ≤ magUnits p * u :=
    Nat.mul_le_mul_right u (magUnits_strictMono.monotone (Nat.le_of_lt_succ hv))
  refine Nat.lt_succ_of_le (roundMag_le_of_lt_midpoint hd ?_)
  rw [Nat.succ_eq_add_one, hp'] at hfive hcross
  rw [Nat.succ_eq_add_one, hq'] at hQ hcross
  have hgap : 2 ^ e' * d < 2 * (2 ^ e * u) := by
    refine Nat.lt_of_mul_lt_mul_right (a := 2 ^ 52) ?_
    calc 2 ^ e' * d * 2 ^ 52 = 2 ^ e' * 2 ^ 52 * d := Nat.mul_right_comm ..
      _ ≤ (m' * 2 ^ e' + 2 ^ e') * d := Nat.mul_le_mul_right d (ulp_le hnorm hQ)
      _ = (m * 2 ^ e + 2 ^ e) * u := hcross.symm
      _ < 2 ^ e * 2 ^ 53 * u := Nat.mul_lt_mul_of_pos_right (lt_ulp_of_five_dvd hm hfive) hu
      _ = 2 * (2 ^ e * u) * 2 ^ 52 := by ring
  rw [Nat.add_mul, Nat.add_mul] at hcross
  rw [hq, hq', Nat.add_mul]
  rw [hp] at hle
  omega

/-! ### LSBs -/

/-- What the proofs use of LSB_T = 175 / 1024 and LSB_H = 25 / 128: no sign, and a short significand, a
multiple of 5. -/
structure IsLsb (lsb : F64) : Prop where
  finite : isFinite lsb = true
  sign : f64Sign lsb = false
  short : ∃ m e, 0 < m ∧ m < 2 ^ 8 ∧ 5 ∣ m ∧ e < 1074 ∧ f64Mag lsb = m * 2 ^ (e + 1)

theorem isLsb_lsbT : IsLsb lsbT := ⟨by decide +kernel, by decide +kernel, 175, 1063, by decide +kernel⟩

theorem isLsb_lsbH : IsLsb lsbH := ⟨by decide +kernel, by decide +kernel, 25, 1066, by decide +kernel⟩

theorem isLsb_of_mem : ∀ lsb ∈ [lsbT, lsbH], IsLsb lsb := by
  simp [isLsb_lsbT, isLsb_lsbH]

/-- `k + 1/2` times a value with a short significand is a binary64 value. -/
theorem exists_tie {n m e k : Nat} (hn : n = m * 2 ^ (e + 1)) (hm : m < 2 ^ 8) (he : e < 1074)
    (hk : k < 128) : ∃ p < infMag, magUnits p * 2 = (2 * k + 1) * n := by
  have hbits : (2 * k + 1) * m < 2 ^ 8 * 2 ^ 8 := Nat.mul_lt_mul'' (by omega) hm
  obtain ⟨p, hfin, hp⟩ := exists_finite_magUnits_eq (m := (2 * k + 1) * m) (e := e) (by omega) (by omega)
  refine ⟨p, hfin, ?_⟩
  rw [hp, hn, Nat.pow_succ]
  ring

/-! ### Encoding a finite value -/

/-- An infinite quotient rounds past every magnitude. -/
theorem roundAbs_halfAway_of_isInf {q : F64} (h : isInf q = true) : 127 < roundAbs .halfAway q := by
  have hbig : ¬ 2 * magUnits infMag < (2 * 127 + roundReach .halfAway) * unitsPerOne := by decide +kernel
  have hmag : f64Mag q = magUnits infMag := congrArg magUnits (of_decide_eq_true h)
  rw [← Nat.not_le, roundAbs_le_iff, hmag]
  exact hbig

/-- R88 on a finite value. -/
theorem offEnc_of_isFinite {v : F64} (hv : isFinite v = true) (lsb : F64) :
    offEnc v lsb = if 127 < roundAbs .halfAway (fdiv (fabs v) lsb) then none
      else some (offByte (fge0 v) (roundAbs .halfAway (fdiv (fabs v) lsb))) := by
  have hnan := isNaN_of_isFinite hv
  unfold offEnc
  cases hq : isInf (fdiv (fabs v) lsb) with
  | true => simp [hnan, hq, roundAbs_halfAway_of_isInf hq]
  | false => simp [hnan, hq]

/-- R66: the fields of an offset byte. -/
theorem offByte_fields (s : Bool) {m : Nat} (hm : m < 128) :
    (offByte s m).getLsbD 7 = s ∧ (offByte s m).toNat % 128 = m := by
  constructor
  · rw [offByte, BitVec.getLsbD_append]
    cases s <;> rfl
  · rw [offByte, toNat_append_eq_add, BitVec.toNat_ofNat]
    omega

section Lsb
variable {lsb : F64} (hl : IsLsb lsb)
include hl

theorem IsLsb.f64Mag_pos : 0 < f64Mag lsb := by
  obtain ⟨m, e, hm, -, -, -, hmag⟩ := hl.short
  rw [hmag]
  exact Nat.mul_pos hm (Nat.two_pow_pos _)

theorem IsLsb.f64Units_eq : f64Units lsb = f64Mag lsb := by
  rw [f64Units, hl.sign, if_neg Bool.false_ne_true]

/-! ### Encoding: the nearest magnitude -/

theorem f64MagBits_quotient {v : F64} (hv : isFinite v = true) :
    f64MagBits (fdiv (fabs v) lsb) = roundMag (f64Mag v * unitsPerOne) (f64Mag lsb) := by
  rw [fdiv_of_isFinite (by rwa [isFinite_fabs]) hl.finite hl.f64Mag_pos.ne', f64MagBits_pack_roundMag,
    f64Mag_fabs]

/-- R88: the magnitude is at most `k` exactly below `k + 1/2` LSB, the division's rounding notwithstanding. -/
theorem roundAbs_quotient_le_iff {v : F64} (hv : isFinite v = true) {k : Nat} (hk : k < 128) :
    roundAbs .halfAway (fdiv (fabs v) lsb) ≤ k ↔ 2 * f64Mag v < (2 * k + 1) * f64Mag lsb := by
  obtain ⟨m, e, -, hm, hfive, he, hmag⟩ := hl.short
  obtain ⟨P, -, hP⟩ := exists_tie hmag hm he hk
  obtain ⟨Q, hfin, hQ⟩ := exists_tie (m := 1) (e := 1073) (n := unitsPerOne) (by decide +kernel) (by decide)
    (by decide) hk
  have hpos := hl.f64Mag_pos
  have hcross : magUnits P * unitsPerOne = magUnits Q * f64Mag lsb := by
    apply Nat.eq_of_mul_eq_mul_right Nat.two_pos
    calc magUnits P * unitsPerOne * 2 = (2 * k + 1) * f64Mag lsb * unitsPerOne := by
          rw [Nat.mul_right_comm, hP]
      _ = (2 * k + 1) * unitsPerOne * f64Mag lsb := Nat.mul_right_comm ..
      _ = magUnits Q * f64Mag lsb * 2 := by rw [← hQ, Nat.mul_right_comm]
  rw [roundAbs_le_iff, roundReach, f64Mag, f64MagBits_quotient hl hv, ← hP, ← hQ, Nat.mul_comm 2,
    Nat.mul_comm 2, Nat.mul_lt_mul_right Nat.two_pos, Nat.mul_lt_mul_right Nat.two_pos,
    magUnits_strictMono.lt_iff_lt, f64Mag, magUnits_strictMono.lt_iff_lt]
  constructor
  · intro h
    by_contra hge
    have hle := roundMag_mono hpos (Nat.mul_le_mul_right unitsPerOne
      (magUnits_strictMono.monotone (Nat.le_of_not_lt hge)))
    rw [hcross, roundMag_magUnits hfin hpos] at hle
    exact absurd h hle.not_gt
  · refine roundMag_lt_of_lt_tie unitsPerOne_pos hpos hcross ?_ ?_
    · refine (by decide : Nat.Coprime 5 2).dvd_of_dvd_mul_right ?_
      rw [hP, hmag]
      exact (hfive.mul_right _).mul_left _
    · have hone : 2 ^ 53 ≤ unitsPerOne := by decide +kernel
      have hle : 1 * unitsPerOne ≤ (2 * k + 1) * unitsPerOne := Nat.mul_le_mul_right _ (by omega)
      omega

theorem IsLsb.offEnc_of_not_isFinite {v : F64} (hv : isFinite v = false) : offEnc v lsb = none := by
  unfold offEnc
  obtain h | h | h := f64_classes v
  · simp [h]
  · obtain ⟨hinf, -⟩ := fdiv_inf_finite (a := fabs v) (by rwa [isInf_fabs]) hl.finite
    simp [isNaN_of_isInf h, hinf]
  · simp [hv] at h

/-- R90: the accepted values. -/
theorem IsLsb.offEnc_isSome_iff (v : F64) :
    (offEnc v lsb).isSome = true ↔ (isFinite v = true ∧ 2 * f64Mag v < 255 * f64Mag lsb) := by
  cases hv : isFinite v with
  | false => simp [hl.offEnc_of_not_isFinite hv]
  | true =>
    have hle := roundAbs_quotient_le_iff hl hv (k := 127) (by decide)
    rw [offEnc_of_isFinite hv, and_iff_right rfl, ← hle]
    split <;> simp <;> omega

/-! ### Decoding: an exact product -/

/-- R87, R89: seven bits of magnitude times a short significand need no rounding. -/
theorem IsLsb.fmul_exact {n : Nat} (hn : n < 128) : isFinite (fmul (f64OfNat n) lsb) = true ∧
    f64Sign (fmul (f64OfNat n) lsb) = false ∧ f64Mag (fmul (f64OfNat n) lsb) = n * f64Mag lsb := by
  obtain ⟨m, e, -, hm, -, he, hmag⟩ := hl.short
  have hbits : n * m < 2 ^ 7 * 2 ^ 8 := Nat.mul_lt_mul'' hn hm
  obtain ⟨p, hfin, hp⟩ := exists_finite_magUnits_eq (e := e + 1) (m := n * m) (by omega) (by omega)
  have hexact : f64Mag (f64OfNat n) * f64Mag lsb = magUnits p * unitsPerOne := by
    rw [f64Mag_f64OfNat (by omega), hmag, hp]
    ring
  have hsign : f64Sign (f64OfNat n) = false := f64Sign_pack _ _
  have hmul := fmul_of_isFinite (f64OfNat_exact (n := n) (by omega)).1 hl.finite
  rw [hexact, roundMag_magUnits hfin unitsPerOne_pos, hsign, hl.sign] at hmul
  have hbound : p < 2 ^ 63 := hfin.trans infMag_lt
  have hpat : f64MagBits (fmul (f64OfNat n) lsb) = p := by
    rw [hmul, f64MagBits_pack, Nat.mod_eq_of_lt hbound]
  refine ⟨?_, by rw [hmul, f64Sign_pack]; rfl, ?_⟩
  · rw [isFinite, hpat]
    exact decide_eq_true hfin
  · rw [f64Mag, hpat, hp, hmag, Nat.mul_assoc]

/-- R89: a decoded byte is its magnitude times the LSB, negated when S is clear. -/
theorem IsLsb.offDec_spec (b : Byte) : isFinite (offDec b lsb) = true ∧
    f64Sign (offDec b lsb) = !b.getLsbD 7 ∧ f64Mag (offDec b lsb) = b.toNat % 128 * f64Mag lsb := by
  obtain ⟨hfin, hsign, hmag⟩ := hl.fmul_exact (n := b.toNat % 128) (by omega)
  rw [← offsetOf_eq_offDec, offsetOf]
  cases hs : b.getLsbD 7 <;> simp [hfin, hsign, hmag]

theorem IsLsb.f64Units_offDec (b : Byte) : f64Units (offDec b lsb) =
    (if b.getLsbD 7 then 1 else -1) * ((b.toNat % 128 : Nat) : Int) * f64Units lsb := by
  obtain ⟨-, hsign, hmag⟩ := hl.offDec_spec b
  rw [f64Units, hsign, hmag, hl.f64Units_eq]
  cases b.getLsbD 7 <;> simp

/-! ### Encoding a decoded byte, and decoding an encoded value -/

/-- A whole number of LSBs is encoded as that number. -/
theorem IsLsb.roundAbs_of_multiple {v : F64} (hv : isFinite v = true) {m : Nat} (hm : m < 128)
    (hmag : f64Mag v = m * f64Mag lsb) : roundAbs .halfAway (fdiv (fabs v) lsb) = m := by
  have hpos := hl.f64Mag_pos
  have hiff (k : Nat) (hk : k < 128) : roundAbs .halfAway (fdiv (fabs v) lsb) ≤ k ↔ 2 * m < 2 * k + 1 := by
    rw [roundAbs_quotient_le_iff hl hv hk, hmag, ← Nat.mul_assoc, Nat.mul_lt_mul_right hpos]
  refine le_antisymm ((hiff m hm).2 (by omega)) ?_
  cases m with
  | zero => exact Nat.zero_le _
  | succ k => exact Nat.lt_of_not_le (mt (hiff k (by omega)).1 (by omega))

/-- R90: an accepted value is within half an LSB of its magnitude. -/
theorem IsLsb.roundAbs_near {v : F64} (hv : isFinite v = true) {m : Nat} (hm : m < 128)
    (hround : roundAbs .halfAway (fdiv (fabs v) lsb) = m) :
    2 * (m * f64Mag lsb) ≤ 2 * f64Mag v + f64Mag lsb ∧ 2 * f64Mag v ≤ 2 * (m * f64Mag lsb) + f64Mag lsb := by
  have hiff (k : Nat) (hk : k < 128) : m ≤ k ↔ 2 * f64Mag v < 2 * (k * f64Mag lsb) + f64Mag lsb := by
    rw [← hround, roundAbs_quotient_le_iff hl hv hk, Nat.add_mul, Nat.one_mul, Nat.mul_assoc]
  refine ⟨?_, ((hiff m hm).1 le_rfl).le⟩
  cases m with
  | zero => omega
  | succ k =>
    have hge := mt (hiff k (by omega)).2 (by omega)
    rw [Nat.add_mul]
    omega

/-- R88: of a decoded byte only the sign of -0.0 is lost. -/
theorem IsLsb.fge0_offDec (b : Byte) :
    fge0 (offDec b lsb) = (b.getLsbD 7 || decide (b.toNat % 128 = 0)) := by
  obtain ⟨hfin, hsign, hmag⟩ := hl.offDec_spec b
  have hzero : f64MagBits (offDec b lsb) = 0 ↔ b.toNat % 128 = 0 := by
    rw [← f64Mag_eq_zero, hmag, Nat.mul_eq_zero, or_iff_left hl.f64Mag_pos.ne']
  rw [fge0, isNaN_of_isFinite hfin, hsign, Bool.not_not, Bool.not_false, Bool.true_and, decide_eq_decide.2 hzero]

theorem IsLsb.offEnc_offDec (b : Byte) : offEnc (offDec b lsb) lsb = some (if b = 0x00 then 0x80 else b) := by
  have hfields : ∀ b : Byte, offByte (b.getLsbD 7 || decide (b.toNat % 128 = 0)) (b.toNat % 128) =
      if b = 0x00 then 0x80 else b := by decide +kernel
  have hm : b.toNat % 128 < 128 := Nat.mod_lt _ (by decide)
  obtain ⟨hfin, -, hmag⟩ := hl.offDec_spec b
  rw [offEnc_of_isFinite hfin, hl.roundAbs_of_multiple hfin hm hmag, if_neg (by omega), hl.fge0_offDec, hfields]

/-- R90: decoding what `offEnc` gives is within half an LSB. -/
theorem IsLsb.offDec_offEnc_near {v : F64} {b : Byte} (h : offEnc v lsb = some b) :
    2 * (f64Units (offDec b lsb) - f64Units v).natAbs ≤ f64Mag lsb := by
  cases hv : isFinite v with
  | false => simp [hl.offEnc_of_not_isFinite hv] at h
  | true =>
    rw [offEnc_of_isFinite hv] at h
    generalize hround : roundAbs .halfAway (fdiv (fabs v) lsb) = m at h
    split at h
    case isTrue => cases h
    case isFalse hm =>
      obtain rfl := Option.some.inj h
      obtain ⟨hsign, hmag⟩ := offByte_fields (fge0 v) (m := m) (by omega)
      obtain ⟨hlo, hhi⟩ := hl.roundAbs_near hv (by omega) hround
      rw [hl.f64Units_offDec, hsign, hmag, hl.f64Units_eq, f64Units_eq_of_fge0 (isNaN_of_isFinite hv),
        mul_assoc, ← Nat.cast_mul, ← mul_sub]
      generalize m * f64Mag lsb = n at *
      split <;> omega

end Lsb

/-- Settles O39: decoding is exact, and the exact multiple of the LSB is encoded as itself. -/
theorem offsetBytesDecodeExactlyAndEncodeBack : Obligations.OffsetBytesDecodeExactlyAndEncodeBack :=
  fun lsb hmem b => ⟨(isLsb_of_mem lsb hmem).f64Units_offDec b, (isLsb_of_mem lsb hmem).offEnc_offDec b⟩

/-- Settles O40: no rounding of the quotient crosses a tie, so the magnitude is the nearest one. -/
theorem offsetRoundTripIsWithinHalfAnLsb : Obligations.OffsetRoundTripIsWithinHalfAnLsb :=
  fun lsb hmem v => ⟨(isLsb_of_mem lsb hmem).offEnc_isSome_iff v,
    fun _ h => (isLsb_of_mem lsb hmem).offDec_offEnc_near h⟩

end Sys2Proof.Machine
end

section
/-!
Errors and the fault record (60_exceptions.md R100, R102, R105): which CTRL values raise `IllegalOp`, what an
operation that fails leaves unchanged, and what becomes of the record.
-/

namespace Sys2Proof.Machine

open Sys2Proof.Claims

/-! ### Illegal CTRL values -/

/-- R26, R102: a CTRL value the decoder rejects is stored and raises `IllegalOp`. -/
theorem step_write_ctrl_of_decode_error {s : State} {v : Byte} {rest : List HostAccess} {x : Reject}
    (hp : s.pending = .write 0x00 (.b8 v) :: rest) (hd : decode v = .error x) :
    step s = .next { s with pending := rest, regs := { s.regs with ctrl := v, status := 0x06 } } := by
  rw [step_write_ctrl hp, startOperation_of_error hd, raise_illegalOp]
  rfl

/-- Settles O12: each of the three cases is a test by which the decoder rejects the value. -/
theorem illegalCtrlValueRaisesIllegalOp : Obligations.IllegalCtrlValueRaisesIllegalOp := by
  intro s v rest hp hillegal
  by_cases hrsv : ctrlRsv v = 0
  · have hdecode := decode_of_rsv_zero hrsv
    obtain hne | hop | ⟨hop, hsel⟩ | ⟨hop, hsel⟩ := hillegal
    · exact absurd hrsv hne
    · exact step_write_ctrl_of_decode_error hp (hdecode.trans (decodeOp_of_reserved _ hop _))
    · exact step_write_ctrl_of_decode_error hp
        (hdecode.trans ((congrArg _ hsel).trans (decodeOp_sel_three _ hop)))
    · exact step_write_ctrl_of_decode_error hp (hdecode.trans (decodeOp_sel_nonzero _ hop _ hsel))
  · exact step_write_ctrl_of_decode_error hp (decode_of_rsv_nonzero hrsv)

/-! ### A failed operation -/

/-- R101: the six STATUS values that name an error. -/
theorem statusOfError_mem_errors (e : OpError) :
    statusOfError e ∈ [0x02#8, 0x12#8, 0x22#8, 0x04#8, 0x14#8, 0x06#8] := by
  cases e with
  | crcError g => revert g; decide
  | rangeError l => revert l; decide
  | illegalOp => decide

/-- Settles O44: an operation raises an error, which writes STATUS alone, or commits. -/
theorem aFailedOperationWritesOnlyStatus : Obligations.AFailedOperationWritesOnlyStatus := by
  intro i s t h
  obtain ⟨e, rfl⟩ | ⟨g, -, rfl⟩ := exec_next_cases h
  · exact .inr ⟨statusOfError_mem_errors e, rfl⟩
  · exact .inl statusOk_eq

/-! ### The fault record -/

/-- Settles O45: every operation, failing or not, has noted its sources first. -/
theorem unwrittenSourcesAreRecorded : Obligations.UnwrittenSourcesAreRecorded :=
  fun i s _ h => (exec_unwrittenFault h).trans (record_eq_recordAfter s (sourcesOf i)).symm

/-- Settles O46: only a read and an operation touch the record, and both keep an earlier one. -/
theorem theFaultRecordIsNeverCleared : Obligations.TheFaultRecordIsNeverCleared := by
  intro s t r hs h
  cases stepCase_of_step h with
  | idle | reset | readUnassigned | writeUnassigned | write | illegal => exact hs
  | read => exact recordAfter_of_recorded _ hs
  | operation _ _ he => exact (exec_unwrittenFault he).trans (recordAfter_of_recorded _ hs)

end Sys2Proof.Machine
end

section
/-!
Reset and completion (70_reset_and_hazards.md R118, R120, R125): what the reset input leaves, and that every
operation completes within the host's write of CTRL.
-/

namespace Sys2Proof.Machine

open Sys2Proof.Claims

/-! ### The reset input -/

/-- Settles O2: `hostReset` replaces the register file and nothing else. -/
theorem resetInputRestoresTheResetRegisters : Obligations.ResetInputRestoresTheResetRegisters :=
  fun _ _ hp => step_reset hp

/-! ### STATUS once an operation is over -/

/-- R101: no error writes the STATUS value 0x00 of a reset. -/
theorem statusOfError_ne_zero (e : OpError) : statusOfError e ≠ 0x00 :=
  ne_of_mem_of_not_mem (statusOfError_mem_errors e) (by decide)

theorem statusOk_ne_zero : statusOk ≠ 0x00 := by decide

/-- R75, R100: an operation ends by writing STATUS, with success or with its error. -/
theorem exec_status_cases {i : Instr} {s t : State} (h : exec i s = .next t) :
    t.regs.status = statusOk ∨ ∃ e, t.regs.status = statusOfError e := by
  obtain ⟨e, rfl⟩ | ⟨g, -, rfl⟩ := exec_next_cases h
  · exact .inr ⟨e, raise_regs_status e _⟩
  · exact .inl (commit_regs_status g _)

/-- R59, R102: a CTRL value that starts no operation ends with the error `IllegalOp`. -/
theorem startOperation_status_cases {v : Byte} {s t : State} (h : startOperation v s = .next t) :
    t.regs.status = statusOk ∨ ∃ e, t.regs.status = statusOfError e := by
  cases hd : decode v with
  | error x =>
    rw [startOperation_of_error hd] at h
    cases h
    exact .inr ⟨.illegalOp, raise_regs_status .illegalOp s⟩
  | ok i =>
    rw [startOperation_of_ok hd] at h
    exact exec_status_cases h

/-- R27, R101: what a CTRL write leaves in STATUS is a value of the table, and not the reset value. -/
theorem startOperation_status_finished {v : Byte} {s t : State} (h : startOperation v s = .next t) :
    t.regs.status ∈ statusValues ∧ t.regs.status ≠ 0x00 := by
  obtain hok | ⟨e, he⟩ := startOperation_status_cases h
  · exact hok ▸ ⟨statusOk_mem, statusOk_ne_zero⟩
  · exact he ▸ ⟨statusOfError_mem e, statusOfError_ne_zero e⟩

/-! ### Completion -/

/-- Settles O43: an operation is its frame, which always answers a next state, and a CTRL write is one step
that starts an operation and completes it. -/
theorem everyOperationCompletes : Obligations.EveryOperationCompletes := by
  refine ⟨fun i s => ⟨_, exec_eq_perform i s⟩, fun s v rest hp => ?_⟩
  obtain ⟨t, hstart, hctrl, -, hpend⟩ := startOperation_completes v (stored s v rest)
  exact ⟨t, (step_write_ctrl hp).trans hstart, hctrl, hpend, startOperation_status_finished hstart⟩

end Sys2Proof.Machine
end
